-- ==== Sys2Proof/Word.lean ====
section
/-! DEFINITION. The word types of the block and the one value type with an `unknown` (spec/00_scope.md R7, R8).
A pin level is one bit (R7, R8): `true` is high and 1, `false` is low and 0. -/

namespace Sys2Proof

/-- An operation word: 16 bits (30_encoding.md R71). -/
abbrev OpWord := BitVec 16

/-- An event code on `ev_code[1:0]` (30_encoding.md R76). -/
abbrev EvCode := BitVec 2

/-- A random draw: an unsigned 32-bit integer (00_scope.md R7). -/
abbrev Draw := BitVec 32

/-- A physical pin identifier, "supplied by the platform" (20_memory.md R52, 10_state.md R21; log 27). -/
abbrev PinHandle := Nat

/-- A pin level: `true` = high = 1, `false` = low = 0 (00_scope.md R8). -/
abbrev Level := Bool

/-- A value, or `unknown`, which "is not a level and may not be compared with one" (00_scope.md R8).
`unknown` is a value of the spec's own: the reset value of the pins, the counts and `t_cur` (10_state.md R34). -/
inductive OrUnknown (α : Type) where
  | unknown
  | is (v : α)
  deriving DecidableEq, Repr

end Sys2Proof
end

