-- ==== Sys2Proof/Syntax.lean ====
section
/-! DEFINITION. The closed enumerations of the block (roles, events, Actions) and `Instr`, one constructor per
row of spec/opcode_table.json (30_encoding.md R80). -/

namespace Sys2Proof

/-- The five pin roles, in the document's order (20_memory.md R52). -/
inductive Role where
  | ser | oe | rclk | srclk | srclr
  deriving DecidableEq, Repr

/-- The roles in boot order, role index 0 to 4 (70_reset_and_hazards.md R211, 30_encoding.md R75). -/
def Role.all : List Role := [.ser, .oe, .rclk, .srclk, .srclr]

/-- One value per role, and so total as the PinMap is (20_memory.md R52). -/
structure PerRole (α : Type) where
  ser   : α
  oe    : α
  rclk  : α
  srclk : α
  srclr : α
  deriving DecidableEq, Repr

/-- The four semantic events (30_encoding.md R76). -/
inductive Event where
  | left | center | right | back
  deriving DecidableEq, Repr

/-- The six Actions, a closed enumeration (41_actionset.md R110, 30_encoding.md R73). -/
inductive Action where
  | clearRegister | clearRegisterInverted | enableOutputInverted | shiftZero | shiftOne | latch
  deriving DecidableEq, Repr

/-- The rows of the opcode table: six ACT words, three GEN words with their per-step delay `t` in
milliseconds (30_encoding.md R72), four EVT codes. -/
inductive Instr where
  | clearRegister
  | clearRegisterInverted
  | enableOutputInverted
  | shiftZero
  | shiftOne
  | latch
  | sweep (t : Nat)
  | alternate (t : Nat)
  | randomRun (t : Nat)
  | left
  | center
  | right
  | back
  deriving DecidableEq, Repr

/-- What is fetched: an operation word from a list, or an event code from the event port. The two have separate
encodings ("The EVT rows are 2-bit codes on the event port, not operation words", 30_encoding.md R80). -/
inductive Code where
  | op (w : OpWord)
  | ev (c : EvCode)
  deriving DecidableEq, Repr

/-- The operation of an Action (30_encoding.md R73). -/
def Action.instr : Action → Instr
  | .clearRegister => .clearRegister
  | .clearRegisterInverted => .clearRegisterInverted
  | .enableOutputInverted => .enableOutputInverted
  | .shiftZero => .shiftZero
  | .shiftOne => .shiftOne
  | .latch => .latch

end Sys2Proof
end

