-- ==== Sys2Proof/Config.lean ====
section
/-! DEFINITION. What is fixed for a run (00_scope.md R6, 10_state.md R28) and the free values, constants without a body
of which nothing can be proved. -/

namespace Sys2Proof

/-- The thirteen parameters of 00_scope.md R6 and the PinMap, the other constant of 10_state.md R28. Which values are
accepted is `Config.wellFormed`. -/
structure Config where
  /-- The PinMap: the physical pin behind each role, "total and fixed at startup" (10_state.md R21, R28, 20_memory.md
  R52, 70_reset_and_hazards.md R213). -/
  pinMap : PerRole PinHandle
  /-- `N_ROLES`: number of pin roles. -/
  nRoles : Nat
  /-- `REG_WIDTH`: width of the external register (20_memory.md R62). -/
  regWidth : Nat
  /-- `T_UNIT`, ms: the PulseDriver delay unit (40_pulsedriver.md R97). That 0 is accepted is the model's choice
  (DESIGN CHOICE, log 26). -/
  tUnit : Nat
  /-- `T_HOLD`, ms: the `hold_duration` of the two pulses, by default `T_UNIT` (40_pulsedriver.md R93). That 0 is
  accepted is the model's choice (DESIGN CHOICE, log 26). -/
  tHold : Nat := tUnit
  /-- `SWEEP_HALF`: steps in each half of Sweep. -/
  sweepHalf : Nat
  /-- `ALT_STEPS`: steps of Alternate. -/
  altSteps : Nat
  /-- `RR_CYCLES`: RandomRun makes `RR_CYCLES + 1` repetitions (42_patternengine.md R140). -/
  rrCycles : Nat
  /-- `RR_MOD`: modulus of the draw reduction (42_patternengine.md R137). -/
  rrMod : Nat
  /-- `RR_BASE`: addend of the draw reduction. -/
  rrBase : Nat
  /-- `RR_FLUSH`: ShiftZero steps that end RandomRun (42_patternengine.md R142). -/
  rrFlush : Nat
  /-- `SCRIPT`: the operation words of AutoSequence (42_patternengine.md R146, R149). -/
  script : List OpWord
  /-- `RESET_ACTIONS`: Actions run at the end of boot (70_reset_and_hazards.md R212). -/
  resetActions : List Action
  /-- `INIT_OK`: whether `init_output(r)` succeeds (70_reset_and_hazards.md R211). -/
  initOk : PerRole Bool
  deriving DecidableEq, Repr

/-- FREE VALUE (log 6): the `u32` on the randomness port when State.rndIn lists none, one per Draw so answered.
"A model takes each returned value as a free input (a draw) under no law" (42_patternengine.md R136). -/
opaque Config.freeDraw : Nat → Draw

/-- FREE VALUE (log 15): what a loop bound reads from `count_on` or `count_off` while it is `unknown`; no run
reads one (10_state.md R25). -/
opaque Config.unknownCount : Nat

end Sys2Proof
end

