-- ==== Sys2Proof/Machine/Reference.lean ====
section
/-! DEFINITION. The reference configuration: every parameter of 00_scope.md R6 at its default. -/

namespace Sys2Proof

/-- The default SCRIPT (42_patternengine.md R146): Clear, then 3 times (Sweep@100, RandomRun@44), then 3 times
(Alternate@90, RandomRun@33), then 3 times (Sweep@50, RandomRun@44, Alternate@50, RandomRun@44). -/
def defaultScript : List OpWord :=
  [0x0000] ++ (List.replicate 3 [0x1064, 0x302C]).flatten ++ (List.replicate 3 [0x205A, 0x3021]).flatten
    ++ (List.replicate 3 [0x1032, 0x302C, 0x2032, 0x302C]).flatten

/-- The example bring-up list BRINGUP of 70_reset_and_hazards.md R212; "an example, not a default". -/
def bringUp : List Action := [.shiftZero, .clearRegister, .latch, .latch, .enableOutputInverted]

/-- The reference configuration: R6's defaults, `T_HOLD` being `T_UNIT`, and for the PinMap, of which the spec leaves the
identifiers to the platform, the index of each role in `PIN[4:0]` (20_memory.md R52; DESIGN CHOICE, log 27). -/
def Config.reference : Config where
  pinMap := ⟨0, 1, 2, 3, 4⟩
  nRoles := 5
  regWidth := 8
  tUnit := 1
  sweepHalf := 8
  altSteps := 16
  rrCycles := 3
  rrMod := 4
  rrBase := 1
  rrFlush := 8
  script := defaultScript
  resetActions := []
  initOk := ⟨true, true, true, true, true⟩

end Sys2Proof
end

