-- ==== Sys2Proof/Machine/State.lean ====
section
/-! DEFINITION. The state of the machine as plain data: the block's own state (10_state.md R20), the configuration it
runs under (R28), the inputs the outside has lined up at its ports (20_memory.md R51), the external register
(20_memory.md R62) and the ghost trace (00_scope.md R10); and its value after reset (10_state.md R34). -/

namespace Sys2Proof.Machine

/-- The ModeController state (10_state.md R23). -/
inductive Fsm where
  | boot | topMenu | manual | auto | immediate | exit | panic
  deriving DecidableEq, Repr

/-- Which operation-word list is running; `none` when none is (10_state.md R30). -/
inductive ListName where
  | none | reset | manL | manC | manR | immL | immC | immR | script
  deriving DecidableEq, Repr

/-- Phase inside a generator word (10_state.md R30). -/
inductive Gph where
  | drawOn | drawOff | body | flush
  deriving DecidableEq, Repr

/-- Segment of a RandomRun repetition, 0 to 2: first on-run, off-run, second on-run (10_state.md R30). -/
inductive Seg where
  | on1 | off | on2
  deriving DecidableEq, Repr

/-- Part of a Step: the shift Action, the Latch, the Wait(t) (10_state.md R30). -/
inductive Sph where
  | act | latch | delay
  deriving DecidableEq, Repr

/-- The sequencer position (10_state.md R30), "at the point just before the next micro-event". Its numeric fields are
naturals, as 92_eei_decisions.md D35 allows (log 4). -/
structure Pos where
  list : ListName
  widx : Nat
  gph  : Gph
  cyc  : Nat
  seg  : Seg
  k    : Nat
  sph  : Sph
  u    : Nat
  deriving DecidableEq, Repr

/-- The rest position: `list = none` "with all other fields at these rest values" (10_state.md R30). -/
def Pos.rest : Pos := ⟨.none, 0, .body, 0, .on1, 0, .act, 0⟩

/-- One micro-event of the trace alphabet (00_scope.md R10). -/
inductive TraceEvent where
  /-- `I r` -/
  | init (r : Role)
  /-- `W r l` -/
  | write (r : Role) (l : Level)
  /-- `D d` -/
  | wait (d : Nat)
  /-- `R x` -/
  | draw (x : Draw)
  /-- `E e` -/
  | event (e : Event)
  /-- `F` -/
  | farewell
  /-- `P r` -/
  | panic (r : Role)
  deriving DecidableEq, Repr

/-- One stage of the external register, bit 0, nearest the serial input, first, every bit 0, 1 or unknown (20_memory.md
R62; environment, log 9). It has `REG_WIDTH` bits (00_scope.md R6; `State.Inv`). -/
abbrev Stage := List (OrUnknown Level)

/-- A stage of `w` bits, all of them `b`. -/
def Stage.fill (w : Nat) (b : OrUnknown Level) : Stage := List.replicate w b

/-- The external register: shift stage and storage stage (20_memory.md R62; environment, log 9). -/
structure ExtReg where
  sh : Stage
  st : Stage
  deriving DecidableEq, Repr

/-- "all sixteen bits are `?` at power-on" (20_memory.md R62). -/
def ExtReg.atPowerOn (w : Nat) : ExtReg := ⟨Stage.fill w .unknown, Stage.fill w .unknown⟩

/-- Why the machine has no further step (93_implementation_defined.md U14: "terminal, which is `stuck` by design"). -/
inductive Fault where
  /-- Raised by `step` in `Exit` once `F` is out and no reset is to come (43_modecontroller.md R175); safe. -/
  | exited
  /-- Raised by `step` in `Panic` once `P r` is out and no reset is to come (60_exceptions.md R190); safe. -/
  | panicked
  deriving DecidableEq, Repr

/-- What the model refuses. -/
inductive Refusal where
  /-- Raised by `exec` for an instruction without a meaning (none is left so); safe. -/
  | notModelled (mnemonic : String)
  /-- Raised by `step` at boot when the configuration is ill formed: "the model refuses it before the run starts"
  (30_encoding.md R74); safe. -/
  | illFormedConfig
  /-- Raised by `step` when the word at the position is reserved; a well-formed configuration has none
  (30_encoding.md R74); safe. -/
  | reservedWord (w : OpWord)
  deriving DecidableEq, Repr

/-- The machine. Which fields are the block's own state, and which are configuration, input, environment, ghost or the
model's own, INVENTORY.md lists under State. -/
structure State where
  /-- `pin[r]`: the level last written to each role, or unknown (10_state.md R21). -/
  pins : PerRole (OrUnknown Level)
  /-- `init[r]`: `init_output(r)` has been performed (10_state.md R22). -/
  init : PerRole Bool
  /-- The ModeController state (10_state.md R23). -/
  fsm : Fsm
  /-- `count_on` (10_state.md R25). -/
  countOn : OrUnknown Nat
  /-- `count_off` (10_state.md R25). -/
  countOff : OrUnknown Nat
  /-- `t_cur`, ms (10_state.md R26). -/
  tCur : OrUnknown Nat
  /-- The count-down of the Wait in progress, ms (10_state.md R27). -/
  timer : Nat
  /-- The sequencer position (10_state.md R30). -/
  pos : Pos
  /-- The role whose initialisation failed, or none (10_state.md R29). -/
  panicRole : Option Role
  /-- MODEL (log 3): the micro-event of the terminal state (`F` or `P r`) is still to be emitted. -/
  owed : Bool
  /-- Configuration (10_state.md R28), written by no step. -/
  cfg : Config
  /-- Input: the level of `rst` at each coming step; no entry is low (70_reset_and_hazards.md R210, log 7). -/
  rstIn : List Bool
  /-- Input: the codes the UI delivers at the coming TakeEvents (43_modecontroller.md R162, log 5). -/
  evIn : List EvCode
  /-- Input: the values on `rnd_data` at the coming Draws (42_patternengine.md R138, log 6). -/
  rndIn : List Draw
  /-- MODEL (log 6): Draws answered by Config.freeDraw so far. -/
  draws : Nat
  /-- Environment: the external register (20_memory.md R62, log 9). -/
  ext : ExtReg
  /-- Ghost: the trace since reset, oldest first (00_scope.md R10, log 22). -/
  trace : List TraceEvent
  /-- Ghost: the sum of the `D` durations since reset, ms (70_reset_and_hazards.md R228, log 22). -/
  elapsed : Nat
  deriving DecidableEq, Repr

/-- The values of 10_state.md R34 under a configuration, with nothing lined up at the ports. `pos.list` is RESET if
RESET_ACTIONS is non-empty, else none. -/
def State.resetWith (c : Config) : State where
  pins := ⟨.unknown, .unknown, .unknown, .unknown, .unknown⟩
  init := ⟨false, false, false, false, false⟩
  fsm := .boot
  countOn := .unknown
  countOff := .unknown
  tCur := .unknown
  timer := 0
  pos := { Pos.rest with list := if c.resetActions = [] then .none else .reset }
  panicRole := none
  owed := false
  cfg := c
  rstIn := []
  evIn := []
  rndIn := []
  draws := 0
  ext := ExtReg.atPowerOn c.regWidth
  trace := []
  elapsed := 0

/-- The machine right after reset in the reference configuration (10_state.md R34, 00_scope.md R6). -/
def State.reset : State := State.resetWith Config.reference

end Sys2Proof.Machine
end

