-- ==== Sys2Proof/Machine/External.lean ====
section
/-! DEFINITION. Reading and writing one role of a per-role record, and the external register's reaction to a pin write
(20_memory.md R62). The register is environment: no operation of the block reads it (R55). -/

namespace Sys2Proof

/-- The value of one role. -/
def PerRole.get {α : Type} (p : PerRole α) : Role → α
  | .ser => p.ser
  | .oe => p.oe
  | .rclk => p.rclk
  | .srclk => p.srclk
  | .srclr => p.srclr

/-- The record with one role changed. -/
def PerRole.set {α : Type} (p : PerRole α) (r : Role) (v : α) : PerRole α :=
  match r with
  | .ser => { p with ser := v }
  | .oe => { p with oe := v }
  | .rclk => { p with rclk := v }
  | .srclk => { p with srclk := v }
  | .srclr => { p with srclr := v }

namespace Machine

/-- The merge of two bits: equal bits stay, unequal ones become unknown (20_memory.md R62). -/
def joinBit (a b : OrUnknown Level) : OrUnknown Level := if a = b then a else .unknown

/-- `join(a, b)`: the bitwise merge (20_memory.md R62). -/
def Stage.join (a b : Stage) : Stage := List.zipWith joinBit a b

/-- `shift(sh, s)`: every bit one place up, the last dropped, `s` in bit 0 (20_memory.md R62). -/
def Stage.shift (a : Stage) (s : OrUnknown Level) : Stage := (s :: a).dropLast

/-- `0x00` in `w` bits. -/
def Stage.zero (w : Nat) : Stage := Stage.fill w (.is false)

/-- `res` of 20_memory.md R62: what the shift stage takes at an edge of SRCLK, by the level of SRCLR. -/
def ExtReg.clockIn (e : ExtReg) (p : PerRole (OrUnknown Level)) : Stage :=
  match p.srclr with
  | .is true => e.sh.shift p.ser
  | .is false => Stage.zero e.sh.length
  | .unknown => (e.sh.shift p.ser).join (Stage.zero e.sh.length)

/-- The reaction to `W r l`, with the pins as recorded before the event (20_memory.md R62). -/
def ExtReg.react (e : ExtReg) (p : PerRole (OrUnknown Level)) (r : Role) (l : Level) : ExtReg :=
  match r, l with
  | .srclr, false => { e with sh := Stage.zero e.sh.length }
  | .srclk, true =>
    match p.srclk with
    | .is true => e
    | .is false => { e with sh := e.clockIn p }
    | .unknown => { e with sh := (e.clockIn p).join e.sh }
  | .rclk, true =>
    match p.rclk with
    | .is true => e
    | .is false => { e with st := e.sh }
    | .unknown => { e with st := e.st.join e.sh }
  | _, _ => e

/-- What the parallel outputs `Q[7:0]` show (20_memory.md R62). -/
inductive Outputs where
  | driven (q : Stage)
  | highImpedance
  | notKnown
  deriving DecidableEq, Repr

/-- The outputs: the storage stage if OE is low, high impedance if it is high, not known which if it is unknown
(20_memory.md R62). -/
def State.outputs (s : State) : Outputs :=
  match s.pins.oe with
  | .is false => .driven s.ext.st
  | .is true => .highImpedance
  | .unknown => .notKnown

/-- What the pad of the physical pin `h` holds: the level of the latch of the role that the PinMap puts there
(10_state.md R21), nothing of the block's if it puts none. -/
def State.pad (s : State) (h : PinHandle) : Option (OrUnknown Level) :=
  (Role.all.find? (fun r => s.cfg.pinMap.get r = h)).map s.pins.get

end Machine
end Sys2Proof
end

