-- ==== Sys2Proof/WellFormed.lean ====
section
/-! DEFINITION. Which instructions have an encoding. The check on a configured SCRIPT needs the decoder and stands in
Decode.lean (`Config.wellFormed`). -/

namespace Sys2Proof

/-- `t` is "an unsigned number of milliseconds from 0 to 4095" (30_encoding.md R72); a larger one "cannot be
encoded" and is refused (93_implementation_defined.md U21). Every other instruction has no operand (R79). -/
def Instr.wellFormed : Instr → Bool
  | .sweep t => decide (t < 4096)
  | .alternate t => decide (t < 4096)
  | .randomRun t => decide (t < 4096)
  | .clearRegister | .clearRegisterInverted | .enableOutputInverted => true
  | .shiftZero | .shiftOne | .latch => true
  | .left | .center | .right | .back => true

end Sys2Proof
end

