-- ==== Sys2Proof/Decode.lean ====
section
/-! DEFINITION. The decoder and the encoder of 30_encoding.md R71 to R77, R80. Decoding is total and rejects by name.
There is no byte order: an operation word is one 16-bit value, an event code one 2-bit value (20_memory.md R56). -/

namespace Sys2Proof

/-- Why a word is no operation: the three kinds of reserved word of 30_encoding.md R74. -/
inductive Reject where
  /-- class `0x4` to `0xF` -/
  | reservedClass
  /-- class `0x0` with any of `w[11:3]` non-zero -/
  | nonZeroField
  /-- class `0x0` with Action code 6 or 7 -/
  | reservedAction
  deriving DecidableEq, Repr

/-- `w[15:12]`, the class (30_encoding.md R71). -/
def opClass (w : OpWord) : Nat := (w.extractLsb' 12 4).toNat

/-- `w[11:0]`, the operand `t`, unscaled (30_encoding.md R72). -/
def opT (w : OpWord) : Nat := (w.extractLsb' 0 12).toNat

/-- `w[11:3]`, which must be zero in an ACT word (30_encoding.md R71). -/
def opZero (w : OpWord) : Nat := (w.extractLsb' 3 9).toNat

/-- `w[2:0]`, the Action code (30_encoding.md R73). -/
def opAct (w : OpWord) : Nat := (w.extractLsb' 0 3).toNat

/-- The Action code of an ACT word: the position in the document's enumeration (30_encoding.md R73). -/
def decodeAction : Nat → Option Action
  | 0 => some .clearRegister
  | 1 => some .clearRegisterInverted
  | 2 => some .enableOutputInverted
  | 3 => some .shiftZero
  | 4 => some .shiftOne
  | 5 => some .latch
  | _ => none

/-- An operation word (30_encoding.md R71, R74). -/
def decodeWord (w : OpWord) : Except Reject Instr :=
  match opClass w with
  | 0 =>
    if opZero w ≠ 0 then .error .nonZeroField
    else match decodeAction (opAct w) with
      | some a => .ok a.instr
      | none => .error .reservedAction
  | 1 => .ok (.sweep (opT w))
  | 2 => .ok (.alternate (opT w))
  | 3 => .ok (.randomRun (opT w))
  | _ => .error .reservedClass

/-- An event code; all four are used (30_encoding.md R76). -/
def decodeEvent (c : EvCode) : Instr :=
  match c.toNat with
  | 0 => .left
  | 1 => .center
  | 2 => .right
  | _ => .back

/-- The decoder. -/
def decode : Code → Except Reject Instr
  | .op w => decodeWord w
  | .ev c => .ok (decodeEvent c)

/-- A GEN word: the class above the twelve bits of `t` (30_encoding.md R71). -/
def genWord (cls t : Nat) : OpWord := BitVec.ofNat 4 cls ++ BitVec.ofNat 12 t

/-- The word of an Action (30_encoding.md R73). -/
def Action.word : Action → OpWord
  | .clearRegister => 0x0000
  | .clearRegisterInverted => 0x0001
  | .enableOutputInverted => 0x0002
  | .shiftZero => 0x0003
  | .shiftOne => 0x0004
  | .latch => 0x0005

/-- The code of an event (30_encoding.md R76). -/
def Event.code : Event → EvCode
  | .left => 0
  | .center => 1
  | .right => 2
  | .back => 3

/-- The encoder: the word or event code of a well-formed instruction (30_encoding.md R80). -/
def encode : Instr → Code
  | .clearRegister => .op Action.clearRegister.word
  | .clearRegisterInverted => .op Action.clearRegisterInverted.word
  | .enableOutputInverted => .op Action.enableOutputInverted.word
  | .shiftZero => .op Action.shiftZero.word
  | .shiftOne => .op Action.shiftOne.word
  | .latch => .op Action.latch.word
  | .sweep t => .op (genWord 1 t)
  | .alternate t => .op (genWord 2 t)
  | .randomRun t => .op (genWord 3 t)
  | .left => .ev Event.left.code
  | .center => .ev Event.center.code
  | .right => .ev Event.right.code
  | .back => .ev Event.back.code

/-- The code the table's bits are: a row of 16 bits is an operation word, a row of at most 8 (an event code of two
bits, in whole bytes) an event code, whose unused bits must be zero (log 19). -/
def tableCode (nbits w : Nat) : Option Code :=
  if nbits = 16 then (if w < 65536 then some (.op (BitVec.ofNat 16 w)) else none)
  else if nbits ≤ 8 then (if w < 4 then some (.ev (BitVec.ofNat 2 w)) else none)
  else none

/-- The instruction the decoder reads from a row's bits, bit 0 the least significant (30_encoding.md R80). -/
def decodeTableWord (nbits w : Nat) : Option Instr :=
  match tableCode nbits w with
  | some c => (match decode c with
    | .ok i => some i
    | .error _ => none)
  | none => none

/-- A word that decodes, that is, no reserved word (30_encoding.md R74). -/
def wordOk (w : OpWord) : Bool :=
  match decodeWord w with
  | .ok _ => true
  | .error _ => false

/-- Each role has a physical pin of its own: the PinMap is "1:1" (20_memory.md R52). -/
def PerRole.distinct (p : PerRole PinHandle) : Bool := decide [p.ser, p.oe, p.rclk, p.srclk, p.srclr].Nodup

/-- A configuration the model accepts before the run: SCRIPT holds no reserved word (30_encoding.md R74, R149), the
remainder of 42_patternengine.md R137 has a modulus, the roles are the five the spec names (R6, R52), and the PinMap is
1:1 (log 13). The delays are not checked: `T_UNIT` or `T_HOLD` of 0, of which 40_pulsedriver.md R92 says only that it
"never arises", is accepted, and its primitives emit `D 0` (DESIGN CHOICE, log 26). -/
def Config.wellFormed (c : Config) : Bool :=
  c.script.all wordOk && decide (c.rrMod ≠ 0) && decide (c.nRoles = Role.all.length) && c.pinMap.distinct

end Sys2Proof
end

