-- ==== Sys2Proof/Machine/Operands.lean ====
section
/-! DEFINITION. The operand forms of the block (30_encoding.md R79): the primitives `pulse` and `shift_bit` with the
arguments the Actions give them, the parts of a Step, the reduced draw, and the lists of operation words. -/

namespace Sys2Proof.Machine

/-- The two micro-operations of the PulseDriver (40_pulsedriver.md R90, R91). -/
inductive Micro where
  /-- `PinWrite(r, l)` -/
  | write (r : Role) (l : Level)
  /-- `Wait(d)`, ms -/
  | wait (d : Nat)
  deriving DecidableEq, Repr

/-- `pulse(p, l0, h)` (40_pulsedriver.md R92). -/
def pulse (p : Role) (l0 : Level) (h : Nat) : List Micro :=
  [.write p l0, .wait h, .write p (!l0), .wait h]

/-- `shift_bit(v)` with the delay unit `T_UNIT` (40_pulsedriver.md R94, R97). -/
def shiftBit (tUnit : Nat) (v : Level) : List Micro :=
  [.write .ser v, .wait tUnit, .write .srclk true, .wait tUnit,
   .write .ser false, .wait tUnit, .write .srclk false, .wait tUnit]

/-- `execute(a)`: the micro-operations of an Action (41_actionset.md R110). -/
def actionMicros (c : Config) : Action → List Micro
  | .clearRegister => pulse .srclr false c.tHold
  | .clearRegisterInverted => [.write .srclr true]
  | .enableOutputInverted => [.write .oe false]
  | .shiftZero => shiftBit c.tUnit false
  | .shiftOne => shiftBit c.tUnit true
  | .latch => pulse .rclk true c.tHold

/-- The parts of `Step(a, t)`, where `v` is the bit shifted (`ShiftOne` for true, `ShiftZero` for false):
`execute(a)`, `execute(Latch)`, `Wait(t)` (42_patternengine.md R130). -/
def stepMicros (c : Config) (v : Level) (t : Nat) : Sph → List Micro
  | .act => actionMicros c (if v then .shiftOne else .shiftZero)
  | .latch => actionMicros c .latch
  | .delay => [.wait t]

/-- `count(x) = (x % RR_MOD) + RR_BASE` (42_patternengine.md R137). -/
def drawCount (c : Config) (x : Draw) : Nat := x.toNat % c.rrMod + c.rrBase

/-- The operation words of each list (43_modecontroller.md R161). -/
def listWords (c : Config) : ListName → List OpWord
  | .none => []
  | .reset => c.resetActions.map Action.word
  | .manL => [0x0003]
  | .manC => [0x0005]
  | .manR => [0x0004]
  | .immL => [0x0003, 0x0005]
  | .immC => [0x0000, 0x0005]
  | .immR => [0x0004, 0x0005]
  | .script => c.script

/-- Where a word starts: the phase of its first micro-event and what `t_cur` is loaded with (43_modecontroller.md
R173, 10_state.md R26, R30); `none` for a generator whose loop runs zero times (00_scope.md R9, log 25). -/
def wordEntry (c : Config) (w : OpWord) : Option (Gph × OrUnknown Nat) :=
  match decodeWord w with
  | .ok (.sweep t) => if c.sweepHalf = 0 then none else some (.body, .is t)
  | .ok (.alternate t) => if c.altSteps = 0 then none else some (.body, .is t)
  | .ok (.randomRun t) => some (.drawOn, .is t)
  | _ => some (.body, .unknown)

/-- The bound `count` of a segment's loop `0 ..= count` (42_patternengine.md R139). An `unknown` count, which no run
reads (10_state.md R25), is a free value (log 15). -/
def State.segCount (s : State) : Nat :=
  match (match s.pos.seg with | .off => s.countOff | _ => s.countOn) with
  | .is n => n
  | .unknown => Config.unknownCount

/-- `t_cur` as a Step of a word with operand `t` reads it (42_patternengine.md R130). While a generator word runs it
holds that word's `t` (10_state.md R26); `unknown`, which no run reads, stands for the same `t` (log 15). -/
def State.stepDelay (s : State) (t : Nat) : Nat :=
  match s.tCur with
  | .is d => d
  | .unknown => t

end Sys2Proof.Machine
end

