-- ==== Sys2Proof/Machine/Ops.lean ====
section
/-! DEFINITION. The named operations over the state: the micro-operations (40_pulsedriver.md), the walk of the
sequencer position over a list (43_modecontroller.md R172, R173), boot (70_reset_and_hazards.md R211), taking the one
exception (60_exceptions.md R190) and reset, the only way out of it (70_reset_and_hazards.md R210). -/

namespace Sys2Proof.Machine

/-- `emit` (00_scope.md R10). -/
def State.emit (s : State) (e : TraceEvent) : State := { s with trace := s.trace ++ [e] }

/-- Moves the micro-event index (10_state.md R31). -/
def State.setU (s : State) (u : Nat) : State := { s with pos := { s.pos with u := u } }

/-! ### Micro-operations -/

/-- `PinWrite(r, l)` (40_pulsedriver.md R90): performed whatever the level was (20_memory.md R54), and the external
register reacts to it (R62). `init[r]` is not checked: R22 makes it an invariant, "not a run-time check" (log 16). -/
def State.pinWrite (s : State) (r : Role) (l : Level) : State :=
  { s with pins := s.pins.set r (.is l), ext := s.ext.react s.pins r l, trace := s.trace ++ [.write r l] }

/-- The start of `Wait(d)`: load the timer, emit `D d` (40_pulsedriver.md R91). -/
def State.beginWait (s : State) (d : Nat) : State :=
  { s with timer := d, elapsed := s.elapsed + d, trace := s.trace ++ [.wait d] }

/-- One millisecond of the Wait in progress (10_state.md R27; log 1). -/
def State.tick (s : State) : State := { s with timer := s.timer - 1 }

/-- One step at the micro-operation `m`; `adv` is the advance of the position once `m` is complete (10_state.md R31).
A Wait is complete when its time has elapsed, at once for `Wait(0)`. `none` is a position past the end of its part,
which no run reaches: there the position moves on, and a timer that runs at a write is run down first (log 4). -/
def State.runMicro (s : State) (adv : State → State) : Option Micro → State
  | some (.write r l) => if s.timer = 0 then adv (s.pinWrite r l) else s.tick
  | some (.wait d) =>
    if s.timer = 0 then (if d = 0 then adv (s.beginWait d) else s.beginWait d)
    else if s.timer = 1 then adv s.tick else s.tick
  | none => if s.timer = 0 then adv s else s.tick

/-- `Draw()` (42_patternengine.md R138): any `u32`, taken from the port's lined-up values, else free (log 6). -/
def State.drawValue (s : State) : Draw :=
  match s.rndIn with
  | x :: _ => x
  | [] => Config.freeDraw s.draws

/-- The state after that Draw: the value consumed and `R x` emitted (42_patternengine.md R138). -/
def State.afterDraw (s : State) : State :=
  match s.rndIn with
  | x :: xs => { s with rndIn := xs, trace := s.trace ++ [.draw x] }
  | [] => { s with draws := s.draws + 1, trace := s.trace ++ [.draw (Config.freeDraw s.draws)] }

/-! ### Lists and words -/

/-- The end of a list: `pos.list <- none`, and control returns to the ModeController, which leaves Boot and Auto for
TopMenu (43_modecontroller.md R172, R174, R170; 10_state.md R31). `t_cur` is unknown outside a generator word (R26). -/
def State.leaveList (s : State) : State :=
  { s with
    pos := Pos.rest
    tCur := .unknown
    fsm := match s.fsm with
      | .boot => .topMenu
      | .auto => .topMenu
      | f => f }

/-- Places the position before the first micro-event of the first of the words `ws` that has one, the first of them
being word `n` of list `l`; the end of the list if none has (43_modecontroller.md R172, R173). -/
def State.enterFrom (s : State) (l : ListName) : List OpWord → Nat → State
  | [], _ => s.leaveList
  | w :: ws, n =>
    match wordEntry s.cfg w with
    | some e => { s with pos := { Pos.rest with list := l, widx := n, gph := e.1 }, tCur := e.2 }
    | none => s.enterFrom l ws (n + 1)

/-- `RunList` up to its first micro-event (43_modecontroller.md R172). -/
def State.startList (s : State) (l : ListName) : State := s.enterFrom l (listWords s.cfg l) 0

/-- A word is done: `widx` increments, or the list ends (10_state.md R31). -/
def State.endWord (s : State) : State :=
  s.enterFrom s.pos.list ((listWords s.cfg s.pos.list).drop (s.pos.widx + 1)) (s.pos.widx + 1)

/-! ### Boot, the exception, the end of a run -/

/-- The role whose `init_output` comes next, in boot order (70_reset_and_hazards.md R211). DESIGN CHOICE, safe (log 28):
no state of the spec is named for boot's place in its loop (10_state.md R20, R30), and the model reads it off `init`, as
the first role whose flag is false. -/
def State.nextInit (s : State) : Option Role := Role.all.find? (fun r => !s.init.get r)

/-- TAKING THE EXCEPTION `raise Panic(r)` (60_exceptions.md R190): `panic_role <- r`, `fsm <- Panic`, and `P r` is the
next micro-event. Nothing is saved. No list runs in Panic (`busy` is false, R190; log 12). -/
def State.raisePanic (s : State) (r : Role) : State :=
  { s with panicRole := some r, fsm := .panic, pos := Pos.rest, owed := true }

/-- The init of `r` succeeded; after the last one RESET is run if it is not empty, else `fsm <- TopMenu`
(70_reset_and_hazards.md R211, R212; 43_modecontroller.md R174). -/
def State.initDone (s : State) (r : Role) : State :=
  let t := { s with init := s.init.set r true }
  if t.nextInit = none ∧ t.pos.list = .none then t.leaveList else t

/-- One `init_output(r)` of boot: `I r`, then success or the panic (70_reset_and_hazards.md R211). -/
def State.bootInit (s : State) (r : Role) : State :=
  if s.cfg.initOk.get r then (s.emit (.init r)).initDone r else (s.emit (.init r)).raisePanic r

/-- The one micro-event of a terminal state: `F` in Exit (43_modecontroller.md R175), `P r` in Panic
(60_exceptions.md R190). DESIGN CHOICE, safe (log 3): no state of the spec is named that holds the role between the
failing `I r` and its `P r` (10_state.md R20 has `panic_role` read by the status port only), and the model's `P r` step
reads `panic_role`, which R190 writes first. A Panic without a role, reached in no run, has no micro-event. -/
def State.emitLast (s : State) : State :=
  match s.fsm, s.panicRole with
  | .panic, some r => { s.emit (.panic r) with owed := false }
  | .panic, none => { s with owed := false }
  | _, _ => { s.emit .farewell with owed := false }

/-- Reset, "the only way out of `Exit` and `Panic`" (70_reset_and_hazards.md R210): every piece of state at its value
of 10_state.md R34, whatever was in progress. The configuration and what the outside has lined up stay; a new trace
begins (log 7, log 8, log 22). -/
def State.takeReset (s : State) : State :=
  { State.resetWith s.cfg with rstIn := s.rstIn, evIn := s.evIn, rndIn := s.rndIn, draws := s.draws }

/-! ### What comes next -/

/-- What the sequencer does next. -/
inductive Next where
  /-- `init_output(r)` of boot -/
  | boot (r : Role)
  /-- the word at the position of the running list -/
  | word (w : OpWord)
  /-- a TakeEvent -/
  | takeEvent
  /-- nothing of the list is left: control returns to the ModeController without a micro-event (log 4) -/
  | listOver
  /-- the micro-event of a terminal state -/
  | last
  /-- terminal: no further micro-event -/
  | stopped
  deriving DecidableEq, Repr

/-- The word at the position (43_modecontroller.md R172). -/
def State.fetchWord (s : State) : Next :=
  match (listWords s.cfg s.pos.list)[s.pos.widx]? with
  | some w => .word w
  | none => .listOver

/-- What comes next in each ModeController state (43_modecontroller.md R160, R174; 70_reset_and_hazards.md R211). -/
def State.next (s : State) : Next :=
  match s.fsm with
  | .boot =>
    match s.nextInit with
    | some r => .boot r
    | none => s.fetchWord
  | .auto => s.fetchWord
  | .topMenu | .manual | .immediate => if s.pos.list = .none then .takeEvent else s.fetchWord
  | .exit | .panic => if s.owed then .last else .stopped

/-! ### Placing an instruction (log 18) -/

/-- All five inits done, no Wait in progress, no reset asserted. -/
def State.ready (s : State) : State :=
  { s with init := ⟨true, true, true, true, true⟩, timer := 0, owed := false, rstIn := [] }

/-- The state about to run the one-word SCRIPT `[w]` in Auto mode. -/
def State.placeWord (s : State) (w : OpWord) : State :=
  State.startList { s.ready with cfg := { s.cfg with script := [w] }, fsm := .auto } .script

/-- The state at a TakeEvent with the code `c` on the event port: in the mode that takes events it is in, else in
TopMenu. -/
def State.placeEvent (s : State) (c : EvCode) : State :=
  { s.ready with
    pos := Pos.rest
    tCur := .unknown
    fsm := match s.fsm with
      | .manual => .manual
      | .immediate => .immediate
      | _ => .topMenu
    evIn := c :: s.evIn }

end Sys2Proof.Machine
end

