-- ==== Sys2Proof/Machine/Flags.lean ====
section
/-! DEFINITION. The status flags, each a function of the state (10_state.md R29), and the codes on the status ports
(30_encoding.md R75, R77; 20_memory.md R51). -/

namespace Sys2Proof

/-- The role code, 3 bits (30_encoding.md R75). -/
def Role.code : Role → BitVec 3
  | .ser => 0
  | .oe => 1
  | .rclk => 2
  | .srclk => 3
  | .srclr => 4

namespace Machine

/-- The state code on `fsm_state[2:0]` (30_encoding.md R77). -/
def Fsm.code : Fsm → BitVec 3
  | .topMenu => 0
  | .manual => 1
  | .auto => 2
  | .immediate => 3
  | .exit => 4
  | .boot => 5
  | .panic => 6

/-- The states that take events (43_modecontroller.md R162). -/
def Fsm.takesEvents : Fsm → Bool
  | .topMenu | .manual | .immediate => true
  | .boot | .auto | .exit | .panic => false

/-- `ev_ready`: the sequencer is at a TakeEvent (10_state.md R29). -/
def State.evReady (s : State) : Bool := s.fsm.takesEvents && decide (s.pos.list = .none)

/-- `rnd_req`: the next micro-event is a Draw (10_state.md R29), that is, the word in progress is a RandomRun in one
of its two draw phases. -/
def State.rndReq (s : State) : Bool :=
  match s.next with
  | .word w =>
    match decodeWord w, s.pos.gph with
    | .ok (.randomRun _), .drawOn => true
    | .ok (.randomRun _), .drawOff => true
    | _, _ => false
  | _ => false

/-- `busy`: `fsm = Boot`, or an operation-word list is running (10_state.md R29). -/
def State.busy (s : State) : Bool := decide (s.fsm = .boot) || decide (s.pos.list ≠ .none)

/-- `farewell`: `fsm = Exit` (10_state.md R29). -/
def State.farewell (s : State) : Bool := decide (s.fsm = .exit)

/-- `panic`: `fsm = Panic` (10_state.md R29). -/
def State.panic (s : State) : Bool := decide (s.fsm = .panic)

/-- `panic_role[2:0]`, "valid while `panic`" (10_state.md R29, 60_exceptions.md R191). -/
def State.panicCode (s : State) : Option (BitVec 3) := if s.panic then s.panicRole.map Role.code else none

/-- `fsm_state[2:0]` (20_memory.md R51, 30_encoding.md R77). -/
def State.fsmState (s : State) : BitVec 3 := s.fsm.code

/-- `init_req`: the role whose `init_output` boot is making (20_memory.md R51; log 28). -/
def State.initReq (s : State) : Option Role :=
  match s.next with
  | .boot r => some r
  | _ => none

end Machine
end Sys2Proof
end

