-- ==== Sys2Proof/Machine/ModeController.lean ====
section
/-! DEFINITION. The four events at a TakeEvent (43_modecontroller.md R160, R162 to R168, R175 to R178). -/

namespace Sys2Proof.Machine

/-- One of the three selection events at a TakeEvent: `E e`, then in TopMenu the mode is entered (Auto runs SCRIPT),
in Manual and Immediate a dispatch list is run (43_modecontroller.md R160, R174). An event offered while `ev_ready` is
false "is not taken" (R171; log 23). -/
def State.select (s : State) (e : Event) (mode : Fsm) (inManual inImmediate : ListName) : State :=
  if s.evReady then
    match s.fsm with
    | .topMenu =>
      if mode = .auto then State.startList { s.emit (.event e) with fsm := .auto } .script
      else { s.emit (.event e) with fsm := mode }
    | .manual => (s.emit (.event e)).startList inManual
    | _ => (s.emit (.event e)).startList inImmediate
  else s

/-- The cancel event: Manual and Immediate return to TopMenu, TopMenu goes to Exit, whose `F` comes next
(43_modecontroller.md R168, R175; log 3). -/
def State.cancel (s : State) : State :=
  if s.evReady then
    match s.fsm with
    | .topMenu => { s.emit (.event .back) with fsm := .exit, owed := true }
    | _ => { s.emit (.event .back) with fsm := .topMenu }
  else s

/-- `Left`: Manual, MAN_L, IMM_L (43_modecontroller.md R176). -/
def execLeft (s : State) : Host.Outcome State Fault Refusal := .next (s.select .left .manual .manL .immL)

/-- `Center`: Auto, MAN_C, IMM_C (43_modecontroller.md R177). -/
def execCenter (s : State) : Host.Outcome State Fault Refusal := .next (s.select .center .auto .manC .immC)

/-- `Right`: Immediate, MAN_R, IMM_R (43_modecontroller.md R178). -/
def execRight (s : State) : Host.Outcome State Fault Refusal := .next (s.select .right .immediate .manR .immR)

/-- `Back`: cancel (43_modecontroller.md R168). -/
def execBack (s : State) : Host.Outcome State Fault Refusal := .next s.cancel

end Sys2Proof.Machine
end

