-- ==== Sys2Proof/Machine/ActionSet.lean ====
section
/-! DEFINITION. The six Actions (41_actionset.md). Each meaning is one step of its Action at the position `pos.u`:
one micro-event, or one millisecond of the Wait in progress (log 1). -/

namespace Sys2Proof.Machine

/-- What follows a completed micro-event of an Action word: the next one, else the word is done (10_state.md R31). -/
def State.advanceAction (a : Action) (s : State) : State :=
  if s.pos.u + 1 < (actionMicros s.cfg a).length then s.setU (s.pos.u + 1) else s.endWord

/-- One step of the Action word `a` (43_modecontroller.md R173, 41_actionset.md R110). -/
def State.actionStep (s : State) (a : Action) : State :=
  s.runMicro (State.advanceAction a) (actionMicros s.cfg a)[s.pos.u]?

/-- `pulse(SRCLR, low, T_HOLD)` (41_actionset.md R112). -/
def execClearRegister (s : State) : Host.Outcome State Fault Refusal := .next (s.actionStep .clearRegister)

/-- `PinWrite(SRCLR, high)` (41_actionset.md R113). -/
def execClearRegisterInverted (s : State) : Host.Outcome State Fault Refusal :=
  .next (s.actionStep .clearRegisterInverted)

/-- `PinWrite(OE, low)` (41_actionset.md R114). -/
def execEnableOutputInverted (s : State) : Host.Outcome State Fault Refusal :=
  .next (s.actionStep .enableOutputInverted)

/-- `shift_bit(false)` (41_actionset.md R115). -/
def execShiftZero (s : State) : Host.Outcome State Fault Refusal := .next (s.actionStep .shiftZero)

/-- `shift_bit(true)` (41_actionset.md R116). -/
def execShiftOne (s : State) : Host.Outcome State Fault Refusal := .next (s.actionStep .shiftOne)

/-- `pulse(RCLK, high, T_HOLD)` (41_actionset.md R117). -/
def execLatch (s : State) : Host.Outcome State Fault Refusal := .next (s.actionStep .latch)

end Sys2Proof.Machine
end

