-- ==== Sys2Proof/Machine/PatternEngine.lean ====
section
/-! DEFINITION. The three generators (42_patternengine.md). Each meaning is one step of its word at the position `pos`:
one micro-event, or one millisecond of the Wait in progress (log 1). -/

namespace Sys2Proof.Machine

/-- What follows a completed micro-event of a Step: the next one of its part, then the next part, then what follows
the Step (42_patternengine.md R130, 10_state.md R31). -/
def State.advanceStep (len : Nat) (after : State → State) (s : State) : State :=
  if s.pos.u + 1 < len then s.setU (s.pos.u + 1)
  else match s.pos.sph with
    | .act => { s with pos := { s.pos with sph := .latch, u := 0 } }
    | .latch => { s with pos := { s.pos with sph := .delay, u := 0 } }
    | .delay => after s

/-- One step of `Step(ShiftOne, t)` (`v` true) or `Step(ShiftZero, t)`; `after` is what follows the Step. -/
def State.genStep (s : State) (v : Level) (t : Nat) (after : State → State) : State :=
  let ms := stepMicros s.cfg v (s.stepDelay t) s.pos.sph
  s.runMicro (State.advanceStep ms.length after) ms[s.pos.u]?

/-- The next Step of a counted loop of `bound` steps, else what follows the loop (10_state.md R31). -/
def State.nextK (bound : Nat) (done : State → State) (s : State) : State :=
  if s.pos.k + 1 < bound then { s with pos := { s.pos with k := s.pos.k + 1, sph := .act, u := 0 } } else done s

/-- `for k in 0 ..= 2*SWEEP_HALF - 1: Step(if k < SWEEP_HALF then ShiftOne else ShiftZero, t)`
(42_patternengine.md R132). -/
def State.sweepStep (s : State) (t : Nat) : State :=
  s.genStep (decide (s.pos.k < s.cfg.sweepHalf)) t (State.nextK (2 * s.cfg.sweepHalf) State.endWord)

/-- `for k in 0 ..= ALT_STEPS - 1: Step(if k % 2 = 0 then ShiftOne else ShiftZero, t)` (42_patternengine.md R134). -/
def State.alternateStep (s : State) (t : Nat) : State :=
  s.genStep (decide (s.pos.k % 2 = 0)) t (State.nextK s.cfg.altSteps State.endWord)

/-- After the last repetition: the flush, if it has a step (42_patternengine.md R139, R142). -/
def State.enterFlush (s : State) : State :=
  if s.cfg.rrFlush = 0 then s.endWord
  else { s with pos := { s.pos with gph := .flush, cyc := 0, seg := .on1, k := 0, sph := .act, u := 0 } }

/-- After a segment: the next segment of the repetition, else the next repetition, else the flush
(42_patternengine.md R139, 10_state.md R31). -/
def State.nextSeg (s : State) : State :=
  match s.pos.seg with
  | .on1 => { s with pos := { s.pos with seg := .off, k := 0, sph := .act, u := 0 } }
  | .off => { s with pos := { s.pos with seg := .on2, k := 0, sph := .act, u := 0 } }
  | .on2 =>
    if s.pos.cyc < s.cfg.rrCycles then
      { s with pos := { s.pos with cyc := s.pos.cyc + 1, seg := .on1, k := 0, sph := .act, u := 0 } }
    else s.enterFlush

/-- The first Draw: `count_on <- (Draw() % 4) + 1` (42_patternengine.md R139, R141). -/
def State.drawOnStep (s : State) : State :=
  if s.timer = 0 then
    { s.afterDraw with countOn := .is (drawCount s.cfg s.drawValue), pos := { s.pos with gph := .drawOff } }
  else s.tick

/-- The second Draw: `count_off <- (Draw() % 4) + 1`, then the first repetition. -/
def State.drawOffStep (s : State) : State :=
  if s.timer = 0 then
    { s.afterDraw with
      countOff := .is (drawCount s.cfg s.drawValue)
      pos := { s.pos with gph := .body, cyc := 0, seg := .on1, k := 0, sph := .act, u := 0 } }
  else s.tick

/-- One step of a repetition: the segments run ShiftOne, ShiftZero, ShiftOne for `k` in `0 ..= count`, that is
`count + 1` Steps each, "the off-by-one is normative" (42_patternengine.md R139, R140). -/
def State.bodyStep (s : State) (t : Nat) : State :=
  s.genStep (decide (s.pos.seg ≠ .off)) t (State.nextK (s.segCount + 1) State.nextSeg)

/-- One step of the flush: RR_FLUSH Steps of ShiftZero (42_patternengine.md R142). -/
def State.flushStep (s : State) (t : Nat) : State :=
  s.genStep false t (State.nextK s.cfg.rrFlush State.endWord)

/-- One step of RandomRun, by its phase (42_patternengine.md R139). -/
def State.randomRunStep (s : State) (t : Nat) : State :=
  match s.pos.gph with
  | .drawOn => s.drawOnStep
  | .drawOff => s.drawOffStep
  | .body => s.bodyStep t
  | .flush => s.flushStep t

/-- `Sweep(t)` (42_patternengine.md R132). -/
def execSweep (t : Nat) (s : State) : Host.Outcome State Fault Refusal := .next (s.sweepStep t)

/-- `Alternate(t)` (42_patternengine.md R134). -/
def execAlternate (t : Nat) (s : State) : Host.Outcome State Fault Refusal := .next (s.alternateStep t)

/-- `RandomRun(t)` (42_patternengine.md R139). -/
def execRandomRun (t : Nat) (s : State) : Host.Outcome State Fault Refusal := .next (s.randomRunStep t)

end Sys2Proof.Machine
end

