-- ==== Sys2Proof/Machine/Dispatch.lean ====
section
/-! DEFINITION. One arm per constructor of Instr: each a direct call of the instruction's meaning. -/

namespace Sys2Proof.Machine

def exec (i : Instr) (s : State) : Host.Outcome State Fault Refusal :=
  match i with
  | .clearRegister => Sys2Proof.Machine.execClearRegister s
  | .clearRegisterInverted => Sys2Proof.Machine.execClearRegisterInverted s
  | .enableOutputInverted => Sys2Proof.Machine.execEnableOutputInverted s
  | .shiftZero => Sys2Proof.Machine.execShiftZero s
  | .shiftOne => Sys2Proof.Machine.execShiftOne s
  | .latch => Sys2Proof.Machine.execLatch s
  | .sweep t => Sys2Proof.Machine.execSweep t s
  | .alternate t => Sys2Proof.Machine.execAlternate t s
  | .randomRun t => Sys2Proof.Machine.execRandomRun t s
  | .left => Sys2Proof.Machine.execLeft s
  | .center => Sys2Proof.Machine.execCenter s
  | .right => Sys2Proof.Machine.execRight s
  | .back => Sys2Proof.Machine.execBack s

end Sys2Proof.Machine
end

