-- ==== Sys2Proof/Machine/Step.lean ====
section
/-! DEFINITION. One step of the machine: one micro-event of `Main` (43_modecontroller.md R174), or one millisecond of a
Wait, or one look at an idle event port (log 1, log 5), or reset (70_reset_and_hazards.md R210). -/

namespace Sys2Proof.Machine

/-- `RunWord`: the word at the position is decoded and run (43_modecontroller.md R173). -/
def runWord (w : OpWord) (s : State) : Host.Outcome State Fault Refusal :=
  match decodeWord w with
  | .ok i => exec i s
  | .error _ => .refused (.reservedWord w)

/-- A TakeEvent: the next event is taken off the port and run; without one the block waits, "blocked, not ended"
(43_modecontroller.md R162, 00_scope.md R13). -/
def takeEvent (s : State) : Host.Outcome State Fault Refusal :=
  match s.evIn with
  | c :: cs => exec (decodeEvent c) { s with evIn := cs }
  | [] => .next s

/-- One step while `rst` is low. -/
def seqStep (s : State) : Host.Outcome State Fault Refusal :=
  match s.next with
  | .boot r => if s.cfg.wellFormed then .next (s.bootInit r) else .refused .illFormedConfig
  | .word w => runWord w s
  | .takeEvent => takeEvent s
  | .listOver => .next s.leaveList
  | .last => .next s.emitLast
  | .stopped =>
    if s.rstIn = [] then .fault (if s.fsm = .panic then .panicked else .exited) else .next s

/-- One step: reset wins over everything (60_exceptions.md R194). -/
def step (s : State) : Host.Outcome State Fault Refusal :=
  match s.rstIn with
  | true :: rs => .next (State.takeReset { s with rstIn := rs })
  | false :: rs => seqStep { s with rstIn := rs }
  | [] => seqStep s

/-- `s` about to run the instruction of that opcode-table word (log 18): an operation word is the one word of SCRIPT
in Auto mode, an event code is on the event port at a TakeEvent. -/
def State.withFetchWord (s : State) (nbits w : Nat) : State :=
  match tableCode nbits w with
  | some (.op v) => s.placeWord v
  | some (.ev c) => s.placeEvent c
  | none => s

end Sys2Proof.Machine
end

