-- ==== Sys2Proof/Machine/Text.lean ====
section
/-! DEFINITION. The canonical text rendering of a trace (00_scope.md R10), the textual form of the operations
(30_encoding.md R81) and the pseudo-operations with their expansions (30_encoding.md R82). -/

namespace Sys2Proof

/-- A role as it is spelled in a trace (00_scope.md R10). -/
def Role.text : Role → String
  | .ser => "SER"
  | .oe => "OE"
  | .rclk => "RCLK"
  | .srclk => "SRCLK"
  | .srclr => "SRCLR"

/-- An event as it is spelled (30_encoding.md R81). -/
def Event.text : Event → String
  | .left => "Left"
  | .center => "Center"
  | .right => "Right"
  | .back => "Back"

/-- An operation as it is written, a generator with its delay as `Sweep@100` (30_encoding.md R81). -/
def Instr.text : Instr → String
  | .clearRegister => "ClearRegister"
  | .clearRegisterInverted => "ClearRegisterInverted"
  | .enableOutputInverted => "EnableOutputInverted"
  | .shiftZero => "ShiftZero"
  | .shiftOne => "ShiftOne"
  | .latch => "Latch"
  | .sweep t => "Sweep@" ++ toString t
  | .alternate t => "Alternate@" ++ toString t
  | .randomRun t => "RandomRun@" ++ toString t
  | .left => "Left"
  | .center => "Center"
  | .right => "Right"
  | .back => "Back"

/-- The pseudo-operations that stand for operation words (30_encoding.md R82); `pattern_1` and `pattern_2` take the
generator's delay. -/
inductive Pseudo where
  | clear
  | shiftOff
  | pattern1 (t : Nat)
  | pattern2 (t : Nat)
  /-- `N× ( list )` -/
  | times (n : Nat) (ws : List OpWord)
  | autoSequence
  deriving DecidableEq, Repr

/-- The words a pseudo-operation is written out as (30_encoding.md R82). -/
def Pseudo.expand (c : Config) : Pseudo → List OpWord
  | .clear => [Action.clearRegister.word]
  | .shiftOff => [Action.shiftZero.word]
  | .pattern1 t => [genWord 1 t]
  | .pattern2 t => [genWord 2 t]
  | .times n ws => (List.replicate n ws).flatten
  | .autoSequence => c.script

namespace Machine

/-- A micro-event as it is written, fields separated by one space (00_scope.md R10). -/
def TraceEvent.text : TraceEvent → String
  | .init r => "I " ++ r.text
  | .write r l => "W " ++ r.text ++ (if l then " 1" else " 0")
  | .wait d => "D " ++ toString d
  | .draw x => "R " ++ toString x.toNat
  | .event e => "E " ++ e.text
  | .farewell => "F"
  | .panic r => "P " ++ r.text

/-- The canonical rendering: one micro-event a line, each line ended by one line feed (00_scope.md R10). -/
def renderTrace : List TraceEvent → String
  | [] => ""
  | e :: es => e.text ++ "\n" ++ renderTrace es

end Machine
end Sys2Proof
end

