-- ==== Sys2Proof/Safety.lean ====
section
/-! DEFINITION. The terms the statements use: runs of the machine, the start of a word, the traces the spec gives its
operations (written from the spec's own lists, not from the machine), and the invariant of the reachable states
(10_state.md R35 and the rules it follows from). -/

namespace Sys2Proof.Machine

/-- `n` steps of the machine, stopping at the first stop (Laws: it is the host's `Core.run`). -/
def runs : Nat → State → Host.Outcome State Fault Refusal
  | 0, s => .next s
  | n + 1, s =>
    match step s with
    | .next t => runs n t
    | .fault r => .fault r
    | .refused r => .refused r

/-- The instruction of the word at the position, if a word comes next. -/
def State.current (s : State) : Option Instr :=
  match s.next with
  | .word w => (match decodeWord w with
    | .ok i => some i
    | .error _ => none)
  | _ => none

/-- Reset is not asserted in the coming step. -/
def State.noReset (s : State) : Prop := s.rstIn.head? ≠ some true

/-- `s` is just before the first micro-event of a word that decodes to `i`, no reset being scheduled: every field of
the position below `widx` is as the word's start has it, and `t_cur` is loaded (43_modecontroller.md R173). -/
def State.AtStart (s : State) (i : Instr) : Prop :=
  s.rstIn = [] ∧ s.timer = 0 ∧ ∃ w e, s.next = .word w ∧ decodeWord w = .ok i ∧ wordEntry s.cfg w = some e ∧
    s.pos = { Pos.rest with list := s.pos.list, widx := s.pos.widx, gph := e.1 } ∧ s.tCur = e.2

/-! ### Traces of the operations, from the spec's own lists -/

/-- The trace of `shift_bit(v)` (40_pulsedriver.md R94). -/
def shiftTrace (c : Config) (v : Level) : List TraceEvent :=
  [.write .ser v, .wait c.tUnit, .write .srclk true, .wait c.tUnit,
   .write .ser false, .wait c.tUnit, .write .srclk false, .wait c.tUnit]

/-- The trace of `Latch` (41_actionset.md R117). -/
def latchTrace (c : Config) : List TraceEvent :=
  [.write .rclk true, .wait c.tHold, .write .rclk false, .wait c.tHold]

/-- The trace of `ClearRegister` (41_actionset.md R112). -/
def clearTrace (c : Config) : List TraceEvent :=
  [.write .srclr false, .wait c.tHold, .write .srclr true, .wait c.tHold]

/-- The trace of `Step(a, t)` shifting `v` (42_patternengine.md R130). -/
def stepTrace (c : Config) (t : Nat) (v : Level) : List TraceEvent :=
  shiftTrace c v ++ latchTrace c ++ [.wait t]

/-- The trace of a sequence of Steps shifting the bits `vs`. -/
def stepsTrace (c : Config) (t : Nat) (vs : List Level) : List TraceEvent := vs.flatMap (stepTrace c t)

/-- The nominal duration of one Step, `4 * T_UNIT + 2 * T_HOLD + t` (42_patternengine.md R130). -/
def stepTime (c : Config) (t : Nat) : Nat := 4 * c.tUnit + 2 * c.tHold + t

/-- How many steps of the machine one Step takes: its 13 micro-events and its milliseconds (log 1). -/
def stepCost (c : Config) (t : Nat) : Nat := 13 + stepTime c t

/-- The bits Sweep shifts: first half ShiftOne, second half ShiftZero (42_patternengine.md R132). -/
def sweepBits (c : Config) : List Level :=
  List.replicate c.sweepHalf true ++ List.replicate c.sweepHalf false

/-- The bits Alternate shifts: even index ShiftOne, odd index ShiftZero (42_patternengine.md R134). -/
def alternateBits (c : Config) : List Level := (List.range c.altSteps).map (fun k => decide (k % 2 = 0))

/-- The bits of one repetition of RandomRun: `c1+1` ShiftOne, `c2+1` ShiftZero, `c1+1` ShiftOne
(42_patternengine.md R139, R140). -/
def repetitionBits (c1 c2 : Nat) : List Level :=
  List.replicate (c1 + 1) true ++ List.replicate (c2 + 1) false ++ List.replicate (c1 + 1) true

/-- The bits RandomRun shifts with counts `c1`, `c2`: the repetitions, then the flush (42_patternengine.md R139). -/
def randomRunBits (c : Config) (c1 c2 : Nat) : List Level :=
  (List.replicate (c.rrCycles + 1) (repetitionBits c1 c2)).flatten ++ List.replicate c.rrFlush false

/-- The pins and the external register together. -/
abbrev Board := PerRole (OrUnknown Level) × ExtReg

/-- A completed `shift_bit(v)`: SER and SRCLK are left low; the register reacts to the one write of SRCLK high
(40_pulsedriver.md R94, 20_memory.md R62). -/
def Board.afterShift (b : Board) (v : Level) : Board :=
  ({ b.1 with ser := .is false, srclk := .is false }, b.2.react { b.1 with ser := .is v } .srclk true)

/-- A completed `Latch`: RCLK is left low; the register reacts to its write high (41_actionset.md R117). -/
def Board.afterLatch (b : Board) : Board :=
  ({ b.1 with rclk := .is false }, b.2.react b.1 .rclk true)

/-- A sequence of completed Steps shifting the bits `vs`. -/
def Board.afterSteps (b : Board) (vs : List Level) : Board := vs.foldl (fun b v => (b.afterShift v).afterLatch) b

/-- The state with pins and register from `b`, the micro-events `es` added to the trace and `d` ms to `elapsed`:
everything a completed Action or sequence of Steps changes but for the position. -/
def State.performed (s : State) (b : Board) (es : List TraceEvent) (d : Nat) : State :=
  { s with pins := b.1, ext := b.2, trace := s.trace ++ es, elapsed := s.elapsed + d }

/-- The board of a state. -/
def State.board (s : State) : Board := (s.pins, s.ext)

/-- The trace of one word, and the draws left over, when the draws are `ds` (43_modecontroller.md R173); a RandomRun
takes two (42_patternengine.md R141). -/
def wordTrace (c : Config) (i : Instr) (ds : List Draw) : List TraceEvent × List Draw :=
  match i with
  | .clearRegister => (clearTrace c, ds)
  | .clearRegisterInverted => ([.write .srclr true], ds)
  | .enableOutputInverted => ([.write .oe false], ds)
  | .shiftZero => (shiftTrace c false, ds)
  | .shiftOne => (shiftTrace c true, ds)
  | .latch => (latchTrace c, ds)
  | .sweep t => (stepsTrace c t (sweepBits c), ds)
  | .alternate t => (stepsTrace c t (alternateBits c), ds)
  | .randomRun t =>
    match ds with
    | x1 :: x2 :: rest =>
      ([.draw x1, .draw x2] ++ stepsTrace c t (randomRunBits c (drawCount c x1) (drawCount c x2)), rest)
    | _ => ([], ds)
  | .left | .center | .right | .back => ([], ds)

/-- The trace of `RunList` (43_modecontroller.md R172), and the draws left over. -/
def listTrace (c : Config) : List Instr → List Draw → List TraceEvent × List Draw
  | [], ds => ([], ds)
  | i :: is, ds =>
    ((wordTrace c i ds).1 ++ (listTrace c is (wordTrace c i ds).2).1, (listTrace c is (wordTrace c i ds).2).2)

/-- How many draws a list takes: two for each RandomRun (42_patternengine.md R141). -/
def drawsNeeded : List Instr → Nat
  | [] => 0
  | .randomRun _ :: is => 2 + drawsNeeded is
  | _ :: is => drawsNeeded is

/-- AutoSequence as the table of 42_patternengine.md R146 has it, written out. -/
def autoSequence : List Instr :=
  [.clearRegister,
   .sweep 100, .randomRun 44, .sweep 100, .randomRun 44, .sweep 100, .randomRun 44,
   .alternate 90, .randomRun 33, .alternate 90, .randomRun 33, .alternate 90, .randomRun 33,
   .sweep 50, .randomRun 44, .alternate 50, .randomRun 44,
   .sweep 50, .randomRun 44, .alternate 50, .randomRun 44,
   .sweep 50, .randomRun 44, .alternate 50, .randomRun 44]

/-- The sum of the `D` durations of a trace (70_reset_and_hazards.md R228). -/
def waitSum : List TraceEvent → Nat
  | [] => 0
  | .wait d :: es => d + waitSum es
  | _ :: es => waitSum es

/-! ### The invariant -/

/-- Every pin unknown (10_state.md R34). -/
def pinsUnknown : PerRole (OrUnknown Level) := ⟨.unknown, .unknown, .unknown, .unknown, .unknown⟩

/-- All five inits done. -/
def allInit : PerRole Bool := ⟨true, true, true, true, true⟩

/-- The inits of the roles before `r` in boot order, and no other (60_exceptions.md R190). -/
def initBefore : Role → PerRole Bool
  | .ser => ⟨false, false, false, false, false⟩
  | .oe => ⟨true, false, false, false, false⟩
  | .rclk => ⟨true, true, false, false, false⟩
  | .srclk => ⟨true, true, true, false, false⟩
  | .srclr => ⟨true, true, true, true, false⟩

/-- The lists that run in each ModeController state (43_modecontroller.md R161, 10_state.md R35 (g)). -/
def Fsm.mayRun : Fsm → ListName → Bool
  | .boot, .none | .boot, .reset => true
  | .topMenu, .none | .exit, .none | .panic, .none => true
  | .manual, .none | .manual, .manL | .manual, .manC | .manual, .manR => true
  | .immediate, .none | .immediate, .immL | .immediate, .immC | .immediate, .immR => true
  | .auto, .script => true
  | _, _ => false

/-- The timer at a micro-operation: zero unless it is a Wait, then at most its duration (10_state.md R27). -/
def timerFits (timer : Nat) : Micro → Prop
  | .write _ _ => timer = 0
  | .wait d => timer ≤ d

/-- A count as a RandomRun writes it: in `[RR_BASE, RR_BASE + RR_MOD - 1]`, which is `[1, 4]` by default
(42_patternengine.md R137). -/
def countFits (c : Config) : OrUnknown Nat → Prop
  | .is n => c.rrBase ≤ n ∧ n < c.rrBase + c.rrMod
  | .unknown => False

/-- The position inside a Step shifting `v` with delay `t`, and the timer there. -/
def State.inStep (s : State) (v : Level) (t : Nat) : Prop :=
  ∃ m, (stepMicros s.cfg v t s.pos.sph)[s.pos.u]? = some m ∧ timerFits s.timer m

/-- The position and the word's registers while the Action word `a` runs: unused fields at rest (10_state.md R30). -/
def State.inAction (s : State) (a : Action) : Prop :=
  s.tCur = .unknown ∧ s.pos = { Pos.rest with list := s.pos.list, widx := s.pos.widx, u := s.pos.u } ∧
    ∃ m, (actionMicros s.cfg a)[s.pos.u]? = some m ∧ timerFits s.timer m

/-- The same while a generator word with operand `t` runs: `t_cur` holds `t` (10_state.md R26), every loop variable is
inside its bound (R30) and both counts are in range in BODY and FLUSH (R35 (d)). -/
def State.inWord (s : State) : Instr → Prop
  | .clearRegister => s.inAction .clearRegister
  | .clearRegisterInverted => s.inAction .clearRegisterInverted
  | .enableOutputInverted => s.inAction .enableOutputInverted
  | .shiftZero => s.inAction .shiftZero
  | .shiftOne => s.inAction .shiftOne
  | .latch => s.inAction .latch
  | .sweep t =>
    s.tCur = .is t ∧ s.pos.gph = .body ∧ s.pos.cyc = 0 ∧ s.pos.seg = .on1 ∧ s.pos.k < 2 * s.cfg.sweepHalf ∧
      s.inStep (decide (s.pos.k < s.cfg.sweepHalf)) t
  | .alternate t =>
    s.tCur = .is t ∧ s.pos.gph = .body ∧ s.pos.cyc = 0 ∧ s.pos.seg = .on1 ∧ s.pos.k < s.cfg.altSteps ∧
      s.inStep (decide (s.pos.k % 2 = 0)) t
  | .randomRun t =>
    s.tCur = .is t ∧
      match s.pos.gph with
      | .drawOn =>
        s.timer = 0 ∧ s.pos = { Pos.rest with list := s.pos.list, widx := s.pos.widx, gph := .drawOn }
      | .drawOff =>
        s.timer = 0 ∧ s.pos = { Pos.rest with list := s.pos.list, widx := s.pos.widx, gph := .drawOff } ∧
          countFits s.cfg s.countOn
      | .body =>
        countFits s.cfg s.countOn ∧ countFits s.cfg s.countOff ∧ s.pos.cyc ≤ s.cfg.rrCycles ∧
          s.pos.k ≤ s.segCount ∧ s.inStep (decide (s.pos.seg ≠ .off)) t
      | .flush =>
        countFits s.cfg s.countOn ∧ countFits s.cfg s.countOff ∧ s.pos.cyc = 0 ∧ s.pos.seg = .on1 ∧
          s.pos.k < s.cfg.rrFlush ∧ s.inStep false t
  | .left | .center | .right | .back => False

/-- The invariant of the reachable states (10_state.md R35, with the rules its parts follow from). -/
structure State.Inv (s : State) : Prop where
  /-- the modulus of the draw reduction is one the boot accepts (log 13) -/
  modulus : s.fsm = .boot ∨ s.cfg.rrMod ≠ 0
  /-- boot makes the inits in order (70_reset_and_hazards.md R211), so that the roles before its place in the loop are the
  initialised ones (log 28); before the last, nothing has been written -/
  booting : ∀ r, s.fsm = .boot → s.nextInit = some r →
    s.init = initBefore r ∧ s.pins = pinsUnknown ∧ s.timer = 0 ∧ s.tCur = .unknown ∧
      s.pos = { Pos.rest with list := s.pos.list }
  /-- boot ends in TopMenu: with all inits done, Boot still runs RESET, under an accepted configuration -/
  bootList : s.fsm = .boot → s.nextInit = none → s.pos.list = .reset ∧ s.cfg.rrMod ≠ 0
  /-- R35 (b) -/
  initialised : s.fsm ≠ .boot → s.fsm ≠ .panic → s.init = allInit
  /-- Panic records the failed role; the earlier inits are done, the later not, and no pin was ever written
  (60_exceptions.md R190) -/
  panicked : s.fsm = .panic → s.pins = pinsUnknown ∧ ∃ r, s.panicRole = some r ∧ s.init = initBefore r
  /-- no role is recorded elsewhere (10_state.md R29) -/
  noRole : s.fsm ≠ .panic → s.panicRole = none
  /-- R35 (g), 43_modecontroller.md R161 -/
  lists : s.fsm.mayRun s.pos.list = true
  /-- between operations the position is at rest (10_state.md R30), no Wait runs (R27), `t_cur` is unknown (R26) -/
  idle : s.pos.list = .none → s.pos = Pos.rest ∧ s.timer = 0 ∧ s.tCur = .unknown
  /-- while a list runs the position is inside it and inside its word -/
  running : s.pos.list ≠ .none → ∃ w, (listWords s.cfg s.pos.list)[s.pos.widx]? = some w ∧
    ∀ i, decodeWord w = .ok i → s.inWord i
  /-- both stages of the external register have `REG_WIDTH` bits (20_memory.md R62, 00_scope.md R6) -/
  widths : s.ext.sh.length = s.cfg.regWidth ∧ s.ext.st.length = s.cfg.regWidth
  /-- only a terminal state owes its micro-event (log 3) -/
  last : s.owed = true → s.fsm = .exit ∨ s.fsm = .panic

/-! ### Comparing runs -/

/-- The state with everything the block must not look at erased: the pin record and the external register
(20_memory.md R55). -/
def State.blind (s : State) : State :=
  { s with pins := pinsUnknown, ext := ⟨[], []⟩ }

/-- An outcome seen without the pin record and the register. -/
def blindOutcome : Host.Outcome State Fault Refusal → Host.Outcome State Fault Refusal
  | .next s => .next s.blind
  | .fault r => .fault r
  | .refused r => .refused r

end Sys2Proof.Machine
end

