-- ==== Sys2Proof/Certificates/Slice0/Obligations.lean ====
section
/-! DEFINITION. The statements for the provers. Each docstring names the rules of spec/ it formalises; a clause that rests
on a choice of the model names the log entry (notes/assumptions/). No statement is about a program. -/

open Sys2Proof Sys2Proof.Machine

/-! ## Encoding -/

/-- 30_encoding.md R73, R76: the six Action words, the reserved Action codes 6 and 7, the four event codes. -/
def Obligations.TableWordsDecode : Prop :=
  decode (.op 0b0000000000000000) = .ok .clearRegister ∧
  decode (.op 0b0000000000000001) = .ok .clearRegisterInverted ∧
  decode (.op 0b0000000000000010) = .ok .enableOutputInverted ∧
  decode (.op 0b0000000000000011) = .ok .shiftZero ∧
  decode (.op 0b0000000000000100) = .ok .shiftOne ∧
  decode (.op 0b0000000000000101) = .ok .latch ∧
  decode (.op 0b0000000000000110) = .error .reservedAction ∧
  decode (.op 0b0000000000000111) = .error .reservedAction ∧
  decode (.ev 0b00) = .ok .left ∧ decode (.ev 0b01) = .ok .center ∧
  decode (.ev 0b10) = .ok .right ∧ decode (.ev 0b11) = .ok .back

/-- 30_encoding.md R71, R72, R73, R76: decoding an encoded well-formed instruction gives it back, with every operand
`t` from 0 to 4095. -/
def Obligations.DecodeEncodeAgree : Prop :=
  ∀ i : Instr, i.wellFormed = true → decode (encode i) = .ok i

/-- 30_encoding.md R71 to R76: each word has one meaning; what decodes is well formed and is that instruction's word. -/
def Obligations.EncodeDecodeAgree : Prop :=
  ∀ (c : Code) (i : Instr), decode c = .ok i → i.wellFormed = true ∧ encode i = c

/-- 30_encoding.md R71, R72: the class is `w[15:12]` and `t` is `w[11:0]`, unscaled; starting the word loads `t_cur`. -/
def Obligations.GeneratorOperandIsLowTwelveBits : Prop :=
  ∀ (w : OpWord) (t : Nat),
    (decode (.op w) = .ok (.sweep t) ↔ w.toNat / 4096 = 1 ∧ t = w.toNat % 4096) ∧
    (decode (.op w) = .ok (.alternate t) ↔ w.toNat / 4096 = 2 ∧ t = w.toNat % 4096) ∧
    (decode (.op w) = .ok (.randomRun t) ↔ w.toNat / 4096 = 3 ∧ t = w.toNat % 4096) ∧
    (∀ (s : State) (l : ListName) (ws : List OpWord) (n : Nat), 0 < s.cfg.sweepHalf → 0 < s.cfg.altSteps →
      1 ≤ w.toNat / 4096 → w.toNat / 4096 ≤ 3 → (s.enterFrom l (w :: ws) n).tCur = .is (w.toNat % 4096))

/-- 30_encoding.md R74: the reserved words are exactly class 4 to 15, Action codes 6 and 7, and class 0 with any of
`w[11:3]` set; a configuration whose SCRIPT holds one is refused before the run; no list of the reference configuration
holds one. -/
def Obligations.ReservedWordsRefused : Prop :=
  (∀ w : OpWord, wordOk w = false ↔
    (4 ≤ w.toNat / 4096 ∨
      (w.toNat / 4096 = 0 ∧ (6 ≤ w.toNat % 8 ∨ w.toNat / 8 % 512 ≠ 0)))) ∧
  (∀ (c : Config) (w : OpWord), w ∈ c.script → wordOk w = false →
    step (State.resetWith c) = .refused .illFormedConfig) ∧
  (∀ l : ListName, (listWords Config.reference l).all wordOk = true)

/-! ## The step -/

/-- 43_modecontroller.md R162, R172, R173, R174, 20_memory.md R51: when the word at the position decodes to `i`, a step
is `exec i`; at a TakeEvent a step takes the offered event off the port and is `exec` of it; with a low level of `rst`
lined up (log 7), after that level is consumed. -/
def Obligations.StepRunsTheDecodedInstruction : Prop :=
  (∀ (s : State) (w : OpWord) (i : Instr), s.next = .word w → decode (.op w) = .ok i →
    (s.rstIn = [] → step s = exec i s) ∧
    (∀ rs, s.rstIn = false :: rs → step s = exec i { s with rstIn := rs })) ∧
  (∀ (s : State) (c : EvCode) (cs : List EvCode) (i : Instr), s.evReady = true → s.evIn = c :: cs →
    decode (.ev c) = .ok i →
    (s.rstIn = [] → step s = exec i { s with evIn := cs }) ∧
    (∀ rs, s.rstIn = false :: rs → step s = exec i { s with rstIn := rs, evIn := cs }))

/-- 43_modecontroller.md R162, 00_scope.md R13: with no event delivered the block waits for ever, and nothing changes.
The list of coming events is the model's form of the port (log 5). -/
def Obligations.WaitsForEverWithoutEvent : Prop :=
  ∀ (s : State) (n : Nat), s.rstIn = [] → s.evReady = true → s.evIn = [] → runs n s = .next s

/-- 60_exceptions.md R192: every Action and every generator has exactly one outcome, the normal one; an event has none
but a next state either (43_modecontroller.md R162, 60_exceptions.md R191), away from a TakeEvent by the model's
choice (log 23). -/
def Obligations.ExecAlwaysCompletes : Prop :=
  ∀ (i : Instr) (s : State), ∃ t, exec i s = .next t

/-! ## Reset and boot -/

/-- 10_state.md R34: the value of every piece of state and every flag after reset, under any configuration. -/
def Obligations.ResetValues : Prop :=
  ∀ c : Config,
    (∀ r, (State.resetWith c).pins.get r = .unknown) ∧ (∀ r, (State.resetWith c).init.get r = false) ∧
    (State.resetWith c).fsm = .boot ∧
    (State.resetWith c).countOn = .unknown ∧ (State.resetWith c).countOff = .unknown ∧
    (State.resetWith c).tCur = .unknown ∧ (State.resetWith c).timer = 0 ∧
    (c.resetActions ≠ [] → (State.resetWith c).pos = ⟨.reset, 0, .body, 0, .on1, 0, .act, 0⟩) ∧
    (c.resetActions = [] → (State.resetWith c).pos = ⟨.none, 0, .body, 0, .on1, 0, .act, 0⟩) ∧
    (State.resetWith c).panicRole = none ∧
    (State.resetWith c).evReady = false ∧ (State.resetWith c).rndReq = false ∧ (State.resetWith c).busy = true ∧
    (State.resetWith c).farewell = false ∧ (State.resetWith c).panic = false ∧
    (State.resetWith c).panicCode = none ∧
    (State.resetWith c).ext = ⟨Stage.fill c.regWidth .unknown, Stage.fill c.regWidth .unknown⟩ ∧
    State.reset = State.resetWith Config.reference

/-- 70_reset_and_hazards.md R210, 60_exceptions.md R194 (c): `rst` wins in any state and puts all of the block's state
at its reset value. That the inputs not yet consumed stay lined up, the external register becomes unknown and the trace
begins anew is the model's choice (log 7, log 8, log 22). -/
def Obligations.ResetWinsInAnyState : Prop :=
  ∀ (s : State) (rs : List Bool), s.rstIn = true :: rs →
    step s = .next { State.resetWith s.cfg with rstIn := rs, evIn := s.evIn, rndIn := s.rndIn, draws := s.draws }

/-- 70_reset_and_hazards.md R211: one `init_output` that succeeds emits `I r`, sets `init[r]` and writes nothing
else, until the last one. The entry into TopMenu is no step of its own (log 2). The role comes next that is the
first in boot order with `init` false (log 28). -/
def Obligations.BootInitialisesNextRole : Prop :=
  ∀ (s : State) (r : Role), s.rstIn = [] → s.fsm = .boot → s.nextInit = some r → s.cfg.wellFormed = true →
    s.cfg.initOk.get r = true →
    ((s.init.set r true ≠ allInit ∨ s.pos.list ≠ .none) →
      step s = .next { s with init := s.init.set r true, trace := s.trace ++ [.init r] }) ∧
    (s.init.set r true = allInit → s.pos.list = .none →
      step s = .next { s with
        init := allInit, trace := s.trace ++ [.init r], fsm := .topMenu, pos := Pos.rest, tCur := .unknown })

/-- 60_exceptions.md R190, R191: an `init_output` that fails raises `Panic(r)`: `panic_role`, `fsm` and `P r`, no
pin and no other state written, `busy` and `ev_ready` false; then no further step. That the state stops by the named
fault is 93_implementation_defined.md U14 (log 14). That `P r` is a step of its own is log 3; that the position is
then at rest, so that `busy` is false, log 12. The role comes next that is the first in boot order with `init` false
(log 28). The role of `P r` is read off `panic_role` (log 3). -/
def Obligations.FailedInitPanics : Prop :=
  ∀ (s : State) (r : Role), s.rstIn = [] → s.fsm = .boot → s.nextInit = some r → s.cfg.wellFormed = true →
    s.cfg.initOk.get r = false →
    ∃ t, runs 2 s = .next t ∧ t.trace = s.trace ++ [.init r, .panic r] ∧
      t.fsm = .panic ∧ t.panicRole = some r ∧ t.panicCode = some r.code ∧ t.busy = false ∧ t.evReady = false ∧
      t.panic = true ∧ t.pins = s.pins ∧ t.init = s.init ∧ t.countOn = s.countOn ∧ t.countOff = s.countOff ∧
      t.tCur = s.tCur ∧ t.timer = s.timer ∧ t.ext = s.ext ∧ t.evIn = s.evIn ∧
      ∀ n, runs (n + 1) t = .fault .panicked

/-- 70_reset_and_hazards.md R211, R212: with every init good, the first five steps after reset are the five inits in
role order; then TopMenu waits for an event, or RESET runs first if RESET_ACTIONS is not empty. The move to TopMenu or
into RESET is made in the fifth of these steps (log 2). -/
def Obligations.BootMakesFiveInitsInOrder : Prop :=
  ∀ c : Config, c.wellFormed = true → c.initOk = allInit →
    ∃ t, runs 5 (State.resetWith c) = .next t ∧
      t.trace = [.init .ser, .init .oe, .init .rclk, .init .srclk, .init .srclr] ∧
      t.init = allInit ∧ t.pins = pinsUnknown ∧ t.elapsed = 0 ∧
      (c.resetActions = [] → t.fsm = .topMenu ∧ t.evReady = true) ∧
      (∀ a as, c.resetActions = a :: as → t.fsm = .boot ∧ t.AtStart a.instr)

/-- 60_exceptions.md R194 (a), R190: the first role in boot order whose init fails is the one reported; the earlier ones
are initialised, the later never tried, and RESET_ACTIONS is not run. INIT_OK is one Boolean a role (log 10); `P r` is a
step of its own (log 3). -/
def Obligations.FirstFailingRolePanics : Prop :=
  ∀ (c : Config) (r : Role), c.wellFormed = true →
    Role.all.find? (fun q => !c.initOk.get q) = some r →
    ∃ t, runs (r.code.toNat + 2) (State.resetWith c) = .next t ∧
      t.trace = (Role.all.take (r.code.toNat + 1)).map .init ++ [.panic r] ∧
      t.fsm = .panic ∧ t.panicRole = some r ∧ t.init = initBefore r ∧ t.pins = pinsUnknown

/-- 70_reset_and_hazards.md R212: the example list BRINGUP takes the block from reset to TopMenu in 26 micro-events
and 10 ms and leaves all five pins known and both stages of the external register zero (36 steps: log 1; the
register: 20_memory.md R62, log 9). What follows a micro-event is done in its step (log 2). -/
def Obligations.BringUpEndsKnown : Prop :=
  ∃ t, runs 36 (State.resetWith { Config.reference with resetActions := bringUp }) = .next t ∧
    t.fsm = .topMenu ∧ t.trace.length = 26 ∧ t.elapsed = 10 ∧
    t.pins = ⟨.is false, .is false, .is false, .is false, .is true⟩ ∧
    t.ext = ⟨Stage.zero 8, Stage.zero 8⟩ ∧ t.outputs = .driven (Stage.zero 8)

/-- 70_reset_and_hazards.md R211, R212, 43_modecontroller.md R172: from reset, boot makes the five inits, runs every
Action of RESET_ACTIONS in order and ends in TopMenu, ready for an event. What follows a micro-event is done in its
step (log 2). -/
def Obligations.BootRunsResetActions : Prop :=
  ∀ c : Config, c.wellFormed = true → c.initOk = allInit →
    ∃ n t, runs n (State.resetWith c) = .next t ∧ t.fsm = .topMenu ∧ t.evReady = true ∧
      t.trace = Role.all.map .init ++ (listTrace c (c.resetActions.map Action.instr) []).1

/-- 00_scope.md R13, 43_modecontroller.md R175, 60_exceptions.md R190: in Exit and Panic the one micro-event still
owed is emitted (log 3), no step but reset changes anything else, and with no reset lined up the run ends (log 14).
The role of `P r` is read off `panic_role` (log 3). -/
def Obligations.TerminalStatesStop : Prop :=
  (∀ s : State, s.rstIn = [] → s.owed = false →
    (s.fsm = .exit → step s = .fault .exited) ∧ (s.fsm = .panic → step s = .fault .panicked)) ∧
  (∀ (s : State) (r : Role), s.rstIn = [] → s.owed = true →
    (s.fsm = .exit → step s = .next { s with trace := s.trace ++ [.farewell], owed := false }) ∧
    (s.fsm = .panic → s.panicRole = some r →
      step s = .next { s with trace := s.trace ++ [.panic r], owed := false })) ∧
  (∀ (s t : State), (s.fsm = .exit ∨ s.fsm = .panic) → s.noReset → step s = .next t →
    t.fsm = s.fsm ∧ t.pins = s.pins ∧ t.evIn = s.evIn ∧ t.ext = s.ext)

/-! ## Events -/

/-- 43_modecontroller.md R176. The list starts in the step of the event, which also leaves `t_cur` unknown
(10_state.md R26, log 2). -/
def Obligations.LeftSelects : Prop :=
  ∀ s : State, s.evReady = true →
    (s.fsm = .topMenu → exec .left s = .next { s with trace := s.trace ++ [.event .left], fsm := .manual }) ∧
    (s.fsm = .manual → exec .left s = .next { s with
      trace := s.trace ++ [.event .left], pos := { Pos.rest with list := .manL }, tCur := .unknown }) ∧
    (s.fsm = .immediate → exec .left s = .next { s with
      trace := s.trace ++ [.event .left], pos := { Pos.rest with list := .immL }, tCur := .unknown }) ∧
    listWords s.cfg .manL = [Action.shiftZero.word] ∧
    listWords s.cfg .immL = [Action.shiftZero.word, Action.latch.word]

/-- 43_modecontroller.md R177. A list starts in the step of the event, with `t_cur` that of its first word, or
unknown for an Action (10_state.md R26, log 2). In TopMenu the script is entered at its first word with a
micro-event (log 25), and an empty one returns to TopMenu at once (42_patternengine.md R149). -/
def Obligations.CenterSelects : Prop :=
  ∀ s : State, s.evReady = true →
    (s.fsm = .topMenu → exec .center s = .next
      (State.startList { s with trace := s.trace ++ [.event .center], fsm := .auto } .script)) ∧
    (∀ w ws e, s.fsm = .topMenu → s.cfg.script = w :: ws → wordEntry s.cfg w = some e →
      exec .center s = .next { s with
        trace := s.trace ++ [.event .center], fsm := .auto,
        pos := { Pos.rest with list := .script, gph := e.1 }, tCur := e.2 }) ∧
    (s.fsm = .topMenu → s.cfg.script = [] → exec .center s = .next { s with
      trace := s.trace ++ [.event .center], fsm := .topMenu, pos := Pos.rest, tCur := .unknown }) ∧
    (s.fsm = .manual → exec .center s = .next { s with
      trace := s.trace ++ [.event .center], pos := { Pos.rest with list := .manC }, tCur := .unknown }) ∧
    (s.fsm = .immediate → exec .center s = .next { s with
      trace := s.trace ++ [.event .center], pos := { Pos.rest with list := .immC }, tCur := .unknown }) ∧
    listWords s.cfg .manC = [Action.latch.word] ∧
    listWords s.cfg .immC = [Action.clearRegister.word, Action.latch.word] ∧
    listWords s.cfg .script = s.cfg.script

/-- 43_modecontroller.md R178. The list starts in the step of the event, which also leaves `t_cur` unknown
(10_state.md R26, log 2). -/
def Obligations.RightSelects : Prop :=
  ∀ s : State, s.evReady = true →
    (s.fsm = .topMenu → exec .right s = .next { s with trace := s.trace ++ [.event .right], fsm := .immediate }) ∧
    (s.fsm = .manual → exec .right s = .next { s with
      trace := s.trace ++ [.event .right], pos := { Pos.rest with list := .manR }, tCur := .unknown }) ∧
    (s.fsm = .immediate → exec .right s = .next { s with
      trace := s.trace ++ [.event .right], pos := { Pos.rest with list := .immR }, tCur := .unknown }) ∧
    listWords s.cfg .manR = [Action.shiftOne.word] ∧
    listWords s.cfg .immR = [Action.shiftOne.word, Action.latch.word]

/-- 43_modecontroller.md R168: cancel returns Manual and Immediate to TopMenu, executes nothing and touches no pin; in
TopMenu it leads to Exit, whose farewell comes next (R175, log 3). -/
def Obligations.BackCancels : Prop :=
  ∀ s : State, s.evReady = true →
    (s.fsm = .manual ∨ s.fsm = .immediate →
      exec .back s = .next { s with trace := s.trace ++ [.event .back], fsm := .topMenu }) ∧
    (s.fsm = .topMenu →
      exec .back s = .next { s with trace := s.trace ++ [.event .back], fsm := .exit, owed := true })

/-- 43_modecontroller.md R175, R168: `Back` taken in TopMenu gives `E Back`, then `F`; then `farewell` is true,
`ev_ready` false, the pins keep their levels and no further micro-event happens (the named stop: log 14). `F` is a step
of its own (log 3). -/
def Obligations.ExitSaysFarewellAndStops : Prop :=
  ∀ (s : State) (cs : List EvCode), s.rstIn = [] → s.fsm = .topMenu → s.evReady = true → s.evIn = 3 :: cs →
    ∃ t, runs 2 s = .next t ∧ t.trace = s.trace ++ [.event .back, .farewell] ∧ t.fsm = .exit ∧
      t.farewell = true ∧ t.evReady = false ∧ t.pins = s.pins ∧ t.ext = s.ext ∧ t.elapsed = s.elapsed ∧
      ∀ n, runs (n + 3) s = .fault .exited

/-- 43_modecontroller.md R171, 20_memory.md R61: while the block is not at a TakeEvent an offered event is not taken,
the port is not looked at, and the step is the same whatever is on it. That the meaning of an event applied there
answers the same state is the model's choice (log 23). -/
def Obligations.NothingPolledWhileBusy : Prop :=
  (∀ s : State, s.evReady = false →
    exec .left s = .next s ∧ exec .center s = .next s ∧ exec .right s = .next s ∧ exec .back s = .next s) ∧
  (∀ (s t : State) (cs : List EvCode), s.evReady = false → s.noReset → step s = .next t →
    t.evIn = s.evIn ∧ (∀ e, t.trace ≠ s.trace ++ [.event e]) ∧
      step { s with evIn := cs } = .next { t with evIn := cs })

/-- 43_modecontroller.md R165: each Manual selection runs its one Action alone and comes back to Manual's TakeEvent.
The number of steps is the model's granularity (log 1); the register reacts as in 20_memory.md R62 (environment, log
9). What follows a micro-event is done in its step (log 2). -/
def Obligations.ManualSelectionsRun : Prop :=
  ∀ (s : State) (cs : List EvCode), s.rstIn = [] → s.fsm = .manual → s.pos = Pos.rest → s.timer = 0 →
    s.tCur = .unknown → s.init = allInit →
    (s.evIn = 0 :: cs → runs (9 + 4 * s.cfg.tUnit) s = .next ({ s with evIn := cs }.performed
      (s.board.afterShift false) (.event .left :: shiftTrace s.cfg false) (4 * s.cfg.tUnit))) ∧
    (s.evIn = 1 :: cs → runs (5 + 2 * s.cfg.tHold) s = .next ({ s with evIn := cs }.performed
      s.board.afterLatch (.event .center :: latchTrace s.cfg) (2 * s.cfg.tHold))) ∧
    (s.evIn = 2 :: cs → runs (9 + 4 * s.cfg.tUnit) s = .next ({ s with evIn := cs }.performed
      (s.board.afterShift true) (.event .right :: shiftTrace s.cfg true) (4 * s.cfg.tUnit))) ∧
    (s.evIn = 3 :: cs → runs 1 s = .next { s with
      evIn := cs, trace := s.trace ++ [.event .back], fsm := .topMenu })

/-- 43_modecontroller.md R167: each Immediate selection runs its Action and exactly one Latch after it, nothing
between, and comes back to Immediate's TakeEvent. The number of steps is the model's granularity (log 1); the
register reacts as in 20_memory.md R62 (environment, log 9). What follows a micro-event is done in its step (log 2). -/
def Obligations.ImmediateSelectionsRun : Prop :=
  ∀ (s : State) (cs : List EvCode), s.rstIn = [] → s.fsm = .immediate → s.pos = Pos.rest → s.timer = 0 →
    s.tCur = .unknown → s.init = allInit →
    (s.evIn = 0 :: cs → runs (13 + 4 * s.cfg.tUnit + 2 * s.cfg.tHold) s = .next ({ s with evIn := cs }.performed
      (s.board.afterShift false).afterLatch (.event .left :: (shiftTrace s.cfg false ++ latchTrace s.cfg))
      (4 * s.cfg.tUnit + 2 * s.cfg.tHold))) ∧
    (s.evIn = 1 :: cs → runs (9 + 4 * s.cfg.tHold) s = .next ({ s with evIn := cs }.performed
      (Board.afterLatch ({ s.pins with srclr := .is true }, { s.ext with sh := Stage.zero s.ext.sh.length }))
      (.event .center :: (clearTrace s.cfg ++ latchTrace s.cfg)) (4 * s.cfg.tHold))) ∧
    (s.evIn = 2 :: cs → runs (13 + 4 * s.cfg.tUnit + 2 * s.cfg.tHold) s = .next ({ s with evIn := cs }.performed
      (s.board.afterShift true).afterLatch (.event .right :: (shiftTrace s.cfg true ++ latchTrace s.cfg))
      (4 * s.cfg.tUnit + 2 * s.cfg.tHold))) ∧
    (s.evIn = 3 :: cs → runs 1 s = .next { s with
      evIn := cs, trace := s.trace ++ [.event .back], fsm := .topMenu })

/-! ## Actions -/

/-- 40_pulsedriver.md R94, 41_actionset.md R115, R116: the eight micro-events of `shift_bit(v)`, by the index `u`; a
Wait starts the timer (R91), the position moving on when it has run down (10_state.md R27, log 1). The register's
reaction to each write is the environment of 20_memory.md R62 (log 9). What follows a micro-event is done in its
step (log 2). -/
def Obligations.ShiftBitMicroEvents : Prop :=
  ∀ (s : State) (v : Level), s.timer = 0 → 0 < s.cfg.tUnit →
    (s.pos.u = 0 → exec (if v then .shiftOne else .shiftZero) s = .next ((s.pinWrite .ser v).setU 1)) ∧
    (s.pos.u = 2 → exec (if v then .shiftOne else .shiftZero) s = .next ((s.pinWrite .srclk true).setU 3)) ∧
    (s.pos.u = 4 → exec (if v then .shiftOne else .shiftZero) s = .next ((s.pinWrite .ser false).setU 5)) ∧
    (s.pos.u = 6 → exec (if v then .shiftOne else .shiftZero) s = .next ((s.pinWrite .srclk false).setU 7)) ∧
    (s.pos.u = 1 ∨ s.pos.u = 3 ∨ s.pos.u = 5 ∨ s.pos.u = 7 →
      exec (if v then .shiftOne else .shiftZero) s = .next (s.beginWait s.cfg.tUnit))

/-- 40_pulsedriver.md R92, R93, 41_actionset.md R112, R117: the four micro-events of the two pulses, by the index
`u`; a Wait starts the timer (R91), the position moving on when it has run down (10_state.md R27, log 1). The
register's reaction to each write is the environment of 20_memory.md R62 (log 9). What follows a micro-event is done
in its step (log 2). -/
def Obligations.PulseMicroEvents : Prop :=
  ∀ s : State, s.timer = 0 → 0 < s.cfg.tHold →
    (s.pos.u = 0 → exec .clearRegister s = .next ((s.pinWrite .srclr false).setU 1) ∧
      exec .latch s = .next ((s.pinWrite .rclk true).setU 1)) ∧
    (s.pos.u = 2 → exec .clearRegister s = .next ((s.pinWrite .srclr true).setU 3) ∧
      exec .latch s = .next ((s.pinWrite .rclk false).setU 3)) ∧
    (s.pos.u = 1 ∨ s.pos.u = 3 → exec .clearRegister s = .next (s.beginWait s.cfg.tHold) ∧
      exec .latch s = .next (s.beginWait s.cfg.tHold))

/-- 41_actionset.md R113, R114: one static write each, no pulse, no wait; then the word is done. That the external
register does not react to these two writes is the environment of 20_memory.md R62 (log 9). What follows a
micro-event is done in its step (log 2). -/
def Obligations.StaticWriteActions : Prop :=
  ∀ s : State, s.timer = 0 → s.pos.u = 0 →
    exec .clearRegisterInverted s = .next (State.endWord { s with
      pins := { s.pins with srclr := .is true }, trace := s.trace ++ [.write .srclr true] }) ∧
    exec .enableOutputInverted s = .next (State.endWord { s with
      pins := { s.pins with oe := .is false }, trace := s.trace ++ [.write .oe false] })

/-- 10_state.md R27, 40_pulsedriver.md R91: a Wait of an Action loads the timer, emits `D d`, counts down one a step
with nothing else changed, and the position moves on when it reaches zero (the step per millisecond: log 1). What
follows a micro-event is done in its step (log 2). -/
def Obligations.WaitCountsDown : Prop :=
  ∀ (s : State) (a : Action) (d : Nat), s.rstIn = [] → s.current = some a.instr → s.timer = 0 →
    (actionMicros s.cfg a)[s.pos.u]? = some (.wait d) →
    (∀ j, j < d → runs (j + 1) s = .next { s with
      timer := d - j, trace := s.trace ++ [.wait d], elapsed := s.elapsed + d }) ∧
    runs (d + 1) s = .next (State.advanceAction a { s with
      trace := s.trace ++ [.wait d], elapsed := s.elapsed + d })

/-- 41_actionset.md R112: the pulse of SRCLR, whatever SRCLR was; it ends high, the shift stage is zero, the storage
stage is untouched, and the word is done after its four micro-events and `2 * T_HOLD` ms (steps: log 1; register:
20_memory.md R62, log 9). What follows a micro-event is done in its step (log 2). -/
def Obligations.ClearRegisterRuns : Prop :=
  ∀ s : State, s.AtStart .clearRegister →
    runs (4 + 2 * s.cfg.tHold) s = .next (State.endWord (s.performed
      ({ s.pins with srclr := .is true }, { s.ext with sh := Stage.zero s.ext.sh.length }) (clearTrace s.cfg) (2 * s.cfg.tHold)))

/-- 41_actionset.md R115, R116, 40_pulsedriver.md R94, R95: `shift_bit(v)` leaves SER and SRCLK low; a certain edge
with SRCLR high shifts `v` in, with SRCLR low the register stays clear, and with SRCLK already high the bit is lost;
with SRCLK or SRCLR unknown, as after reset, the outcomes merge (20_memory.md R62, log 9; 70_reset_and_hazards.md
R223, R224). The number of steps is the model's granularity (log 1). What follows a micro-event is done in its step
(log 2). -/
def Obligations.ShiftRuns : Prop :=
  ∀ (s : State) (v : Level), s.AtStart (if v then .shiftOne else .shiftZero) →
    ∃ x : ExtReg, runs (8 + 4 * s.cfg.tUnit) s = .next (State.endWord (s.performed
      ({ s.pins with ser := .is false, srclk := .is false }, x) (shiftTrace s.cfg v) (4 * s.cfg.tUnit))) ∧
      x.st = s.ext.st ∧
      (s.pins.srclk = .is false → s.pins.srclr = .is true → x.sh = s.ext.sh.shift (.is v)) ∧
      (s.pins.srclk = .is false → s.pins.srclr = .is false → x.sh = Stage.zero s.ext.sh.length) ∧
      (s.pins.srclk = .is false → s.pins.srclr = .unknown →
        x.sh = (s.ext.sh.shift (.is v)).join (Stage.zero s.ext.sh.length)) ∧
      (s.pins.srclk = .is true → x.sh = s.ext.sh) ∧
      (s.pins.srclk = .unknown → s.pins.srclr = .is true → x.sh = (s.ext.sh.shift (.is v)).join s.ext.sh) ∧
      (s.pins.srclk = .unknown → s.pins.srclr = .is false → x.sh = (Stage.zero s.ext.sh.length).join s.ext.sh) ∧
      (s.pins.srclk = .unknown → s.pins.srclr = .unknown →
        x.sh = ((s.ext.sh.shift (.is v)).join (Stage.zero s.ext.sh.length)).join s.ext.sh)

/-- 41_actionset.md R117: the pulse of RCLK leaves it low and copies the shift stage to the storage stage at a
certain edge; with RCLK already high nothing is copied, with it unknown equal bits stay known (20_memory.md R62, log
9; 70_reset_and_hazards.md R223). The number of steps is the model's granularity (log 1). What follows a micro-event
is done in its step (log 2). -/
def Obligations.LatchRuns : Prop :=
  ∀ s : State, s.AtStart .latch →
    ∃ x : ExtReg, runs (4 + 2 * s.cfg.tHold) s = .next (State.endWord (s.performed
      ({ s.pins with rclk := .is false }, x) (latchTrace s.cfg) (2 * s.cfg.tHold))) ∧
      x.sh = s.ext.sh ∧
      (s.pins.rclk = .is false → x.st = s.ext.sh) ∧
      (s.pins.rclk = .is true → x.st = s.ext.st) ∧
      (s.pins.rclk = .unknown → x.st = s.ext.st.join s.ext.sh)

/-- 41_actionset.md R111: "No Action writes a pin outside its pins written column"; and no step of an Action writes a
count, an init flag, the panic role, the configuration or an input, or, save at the word's end, `t_cur` or `fsm`. That
an Action which does not write RCLK leaves the storage stage, and one which writes neither SRCLK nor a low SRCLR leaves
the shift stage, is the environment of 20_memory.md R62 (log 9). What follows the last micro-event of a word is done in
its step (log 2). -/
def Obligations.ActionFrame : Prop :=
  ∀ (a : Action) (s t : State), exec a.instr s = .next t →
    (a ≠ .shiftZero → a ≠ .shiftOne → t.pins.ser = s.pins.ser ∧ t.pins.srclk = s.pins.srclk) ∧
    (a ≠ .latch → t.pins.rclk = s.pins.rclk ∧ t.ext.st = s.ext.st) ∧
    (a ≠ .clearRegister → a ≠ .clearRegisterInverted → t.pins.srclr = s.pins.srclr) ∧
    (a ≠ .enableOutputInverted → t.pins.oe = s.pins.oe) ∧
    (a ≠ .clearRegister → a ≠ .shiftZero → a ≠ .shiftOne → t.ext.sh = s.ext.sh) ∧
    t.init = s.init ∧ t.countOn = s.countOn ∧ t.countOff = s.countOff ∧ t.panicRole = s.panicRole ∧
    t.owed = s.owed ∧ t.cfg = s.cfg ∧ t.rstIn = s.rstIn ∧ t.evIn = s.evIn ∧ t.rndIn = s.rndIn ∧
    t.draws = s.draws ∧
    ((t.tCur = s.tCur ∧ t.fsm = s.fsm) ∨ (actionMicros s.cfg a).length ≤ s.pos.u + 1)

/-! ## Generators -/

/-- 42_patternengine.md R130, R132, R134, R139: the writes and the closing Wait of a Step, by part and index, for
each generator; the bit shifted is the one the step index, the segment or the flush decides. The Wait starts the
timer, the position moving on when it has run down (10_state.md R27, log 1); the register's reaction to each write
is the environment of 20_memory.md R62 (log 9). What follows a micro-event is done in its step (log 2). -/
def Obligations.GeneratorMicroEvents : Prop :=
  ∀ (s : State) (t d : Nat), s.timer = 0 →
    (s.pos.sph = .act → s.pos.u = 0 →
      exec (.sweep t) s = .next ((s.pinWrite .ser (decide (s.pos.k < s.cfg.sweepHalf))).setU 1) ∧
      exec (.alternate t) s = .next ((s.pinWrite .ser (decide (s.pos.k % 2 = 0))).setU 1) ∧
      (s.pos.gph = .body → s.pos.seg ≠ .off → exec (.randomRun t) s = .next ((s.pinWrite .ser true).setU 1)) ∧
      (s.pos.gph = .body → s.pos.seg = .off → exec (.randomRun t) s = .next ((s.pinWrite .ser false).setU 1)) ∧
      (s.pos.gph = .flush → exec (.randomRun t) s = .next ((s.pinWrite .ser false).setU 1))) ∧
    (s.pos.sph = .latch → s.pos.u = 0 →
      exec (.sweep t) s = .next ((s.pinWrite .rclk true).setU 1) ∧
      exec (.alternate t) s = .next ((s.pinWrite .rclk true).setU 1) ∧
      (s.pos.gph = .body ∨ s.pos.gph = .flush →
        exec (.randomRun t) s = .next ((s.pinWrite .rclk true).setU 1))) ∧
    (s.pos.sph = .delay → s.pos.u = 0 → s.tCur = .is d → 0 < d →
      exec (.sweep t) s = .next (s.beginWait d) ∧
      exec (.alternate t) s = .next (s.beginWait d) ∧
      (s.pos.gph = .body ∨ s.pos.gph = .flush → exec (.randomRun t) s = .next (s.beginWait d)))

/-- 42_patternengine.md R138, R139, R141: the two Draws of RandomRun, the first giving `count_on`, the second
`count_off`, and the phase moving on to the second Draw and then to the body; each takes one value off the port.
Where none is lined up the draw is a free value and the model's counter of such draws advances (log 6), the rest
being the same. What follows a micro-event is done in its step (log 2). -/
def Obligations.RandomRunDraws : Prop :=
  ∀ (s : State) (t : Nat), s.timer = 0 →
    (∀ x xs, s.pos.gph = .drawOn → s.rndIn = x :: xs → exec (.randomRun t) s = .next { s with
      rndIn := xs, trace := s.trace ++ [.draw x], countOn := .is (x.toNat % s.cfg.rrMod + s.cfg.rrBase)
      pos := { s.pos with gph := .drawOff } }) ∧
    (∀ x xs, s.pos.gph = .drawOff → s.rndIn = x :: xs → exec (.randomRun t) s = .next { s with
      rndIn := xs, trace := s.trace ++ [.draw x], countOff := .is (x.toNat % s.cfg.rrMod + s.cfg.rrBase)
      pos := ⟨s.pos.list, s.pos.widx, .body, 0, .on1, 0, .act, 0⟩ }) ∧
    (s.pos.gph = .drawOn → s.rndIn = [] → ∃ x : Draw, exec (.randomRun t) s = .next { s with
      draws := s.draws + 1, trace := s.trace ++ [.draw x], countOn := .is (x.toNat % s.cfg.rrMod + s.cfg.rrBase)
      pos := { s.pos with gph := .drawOff } }) ∧
    (s.pos.gph = .drawOff → s.rndIn = [] → ∃ x : Draw, exec (.randomRun t) s = .next { s with
      draws := s.draws + 1, trace := s.trace ++ [.draw x], countOff := .is (x.toNat % s.cfg.rrMod + s.cfg.rrBase)
      pos := ⟨s.pos.list, s.pos.widx, .body, 0, .on1, 0, .act, 0⟩ })

/-- 42_patternengine.md R137: a draw reduces to `x % RR_MOD + RR_BASE`; in the reference configuration that is
`x[1:0] + 1`, in 1 to 4, and the 30 high bits have no effect. -/
def Obligations.DrawReducesToLowTwoBits : Prop :=
  (∀ (c : Config) (x : Draw), drawCount c x = x.toNat % c.rrMod + c.rrBase) ∧
  ∀ x : Draw, drawCount Config.reference x = (x.extractLsb' 0 2).toNat + 1 ∧
    1 ≤ drawCount Config.reference x ∧ drawCount Config.reference x ≤ 4

/-- 42_patternengine.md R130: one whole Step inside each generator's loop takes its 13 micro-events and `4 * T_UNIT
+ 2 * T_HOLD + t` ms, shifting and latching the bit of R132, R134, R140 or R142, and leads to the next Step of the
loop (steps of the machine: log 1; register: 20_memory.md R62, log 9). What follows a micro-event is done in its
step (log 2). -/
def Obligations.StepOfEachGeneratorRuns : Prop :=
  ∀ (s : State) (t : Nat), s.rstIn = [] → s.timer = 0 → s.pos.sph = .act → s.pos.u = 0 → s.tCur = .is t →
    (s.current = some (.sweep t) → s.pos.k + 1 < 2 * s.cfg.sweepHalf →
      runs (stepCost s.cfg t) s = .next { s.performed (s.board.afterSteps [decide (s.pos.k < s.cfg.sweepHalf)])
        (stepTrace s.cfg t (decide (s.pos.k < s.cfg.sweepHalf))) (stepTime s.cfg t) with
        pos := { s.pos with k := s.pos.k + 1 } }) ∧
    (s.current = some (.alternate t) → s.pos.k + 1 < s.cfg.altSteps →
      runs (stepCost s.cfg t) s = .next { s.performed (s.board.afterSteps [decide (s.pos.k % 2 = 0)])
        (stepTrace s.cfg t (decide (s.pos.k % 2 = 0))) (stepTime s.cfg t) with
        pos := { s.pos with k := s.pos.k + 1 } }) ∧
    (∀ n, s.current = some (.randomRun t) → s.pos.gph = .body → s.pos.k < n →
      (s.pos.seg = .off → s.countOff = .is n) → (s.pos.seg ≠ .off → s.countOn = .is n) →
      runs (stepCost s.cfg t) s = .next { s.performed (s.board.afterSteps [decide (s.pos.seg ≠ .off)])
        (stepTrace s.cfg t (decide (s.pos.seg ≠ .off))) (stepTime s.cfg t) with
        pos := { s.pos with k := s.pos.k + 1 } }) ∧
    (s.current = some (.randomRun t) → s.pos.gph = .flush → s.pos.k + 1 < s.cfg.rrFlush →
      runs (stepCost s.cfg t) s = .next { s.performed (s.board.afterSteps [false])
        (stepTrace s.cfg t false) (stepTime s.cfg t) with pos := { s.pos with k := s.pos.k + 1 } })

/-- 42_patternengine.md R132: Sweep emits `2 * SWEEP_HALF` Steps, the first half ShiftOne, the second ShiftZero,
each with its Latch and its Wait(t); then the word is done (steps: log 1; register: 20_memory.md R62, log 9). What
follows a micro-event is done in its step (log 2). -/
def Obligations.SweepRuns : Prop :=
  ∀ (s : State) (t : Nat), s.AtStart (.sweep t) →
    runs (2 * s.cfg.sweepHalf * stepCost s.cfg t) s = .next (State.endWord (s.performed
      (s.board.afterSteps (sweepBits s.cfg)) (stepsTrace s.cfg t (sweepBits s.cfg))
      (2 * s.cfg.sweepHalf * stepTime s.cfg t)))

/-- 42_patternengine.md R132, 20_memory.md R62, R63 (a): with SRCLR high, and halves at least as long as the
register is wide (both are 8 by default), the Sweep is over with both stages all zero whatever they held and
whatever the clocks were; in the reference configuration after 208 micro-events and `16 * (6 + t)` ms. The widths of
the stages are an invariant (State.Inv.widths); steps: log 1; register: log 9. What follows a micro-event is done in
its step (log 2). -/
def Obligations.SweepEndsAllZero : Prop :=
  ∀ (s : State) (t : Nat), s.AtStart (.sweep t) → s.pins.srclr = .is true → s.cfg.regWidth ≤ s.cfg.sweepHalf →
    s.ext.sh.length = s.cfg.regWidth → s.ext.st.length = s.cfg.regWidth →
    ∃ v : State, runs (2 * s.cfg.sweepHalf * stepCost s.cfg t) s = .next v.endWord ∧
      v.pos.list = s.pos.list ∧ v.pos.widx = s.pos.widx ∧ v.cfg = s.cfg ∧ v.fsm = s.fsm ∧ v.timer = 0 ∧
      v.ext = ⟨Stage.zero s.cfg.regWidth, Stage.zero s.cfg.regWidth⟩ ∧
      v.pins = ⟨.is false, s.pins.oe, .is false, .is false, .is true⟩ ∧
      v.trace = s.trace ++ stepsTrace s.cfg t (sweepBits s.cfg) ∧
      v.elapsed = s.elapsed + 2 * s.cfg.sweepHalf * stepTime s.cfg t ∧
      (s.cfg = Config.reference → v.trace.length = s.trace.length + 208 ∧ v.elapsed = s.elapsed + 16 * (6 + t))

/-- 42_patternengine.md R134: Alternate emits ALT_STEPS Steps, even index ShiftOne, odd index ShiftZero; then the
word is done (steps: log 1; register: 20_memory.md R62, log 9). What follows a micro-event is done in its step (log
2). -/
def Obligations.AlternateRuns : Prop :=
  ∀ (s : State) (t : Nat), s.AtStart (.alternate t) →
    runs (s.cfg.altSteps * stepCost s.cfg t) s = .next (State.endWord (s.performed
      (s.board.afterSteps (alternateBits s.cfg)) (stepsTrace s.cfg t (alternateBits s.cfg))
      (s.cfg.altSteps * stepTime s.cfg t)))

/-- 42_patternengine.md R139, R140, R141, R142: RandomRun makes two Draws, then RR_CYCLES + 1 repetitions of `c1+1`
ShiftOne, `c2+1` ShiftZero, `c1+1` ShiftOne Steps, then RR_FLUSH ShiftZero Steps; then the word is done (steps: log
1; register: 20_memory.md R62, log 9). With fewer than two draws lined up see RandomRunDraws. What follows a
micro-event is done in its step (log 2). -/
def Obligations.RandomRunRuns : Prop :=
  ∀ (s : State) (t : Nat) (x1 x2 : Draw) (xs : List Draw), s.AtStart (.randomRun t) → s.rndIn = x1 :: x2 :: xs →
    ∀ c1 c2, c1 = x1.toNat % s.cfg.rrMod + s.cfg.rrBase → c2 = x2.toNat % s.cfg.rrMod + s.cfg.rrBase →
    runs (2 + (randomRunBits s.cfg c1 c2).length * stepCost s.cfg t) s = .next (State.endWord
      { s.performed (s.board.afterSteps (randomRunBits s.cfg c1 c2))
        ([.draw x1, .draw x2] ++ stepsTrace s.cfg t (randomRunBits s.cfg c1 c2))
        ((randomRunBits s.cfg c1 c2).length * stepTime s.cfg t) with
        rndIn := xs, countOn := .is c1, countOff := .is c2 })

/-- 42_patternengine.md R143: the size of a RandomRun with the structural parameters of the reference configuration:
`8*c1 + 4*c2 + 20` Steps, after which the word is over: it takes `2 + 13 * steps` micro-events and, with delays of 1
ms, `steps * (6 + t)` ms. The number of steps of the machine is the model's granularity (log 1). What follows a
micro-event is done in its step (log 2). -/
def Obligations.RandomRunSize : Prop :=
  ∀ (s : State) (t c1 c2 n : Nat) (x1 x2 : Draw) (xs : List Draw), s.AtStart (.randomRun t) →
    s.cfg.rrMod = 4 → s.cfg.rrBase = 1 → s.cfg.rrCycles = 3 → s.cfg.rrFlush = 8 → s.cfg.tUnit = 1 → s.cfg.tHold = 1 →
    s.rndIn = x1 :: x2 :: xs → c1 = x1.toNat % 4 + 1 → c2 = x2.toNat % 4 + 1 → n = 8 * c1 + 4 * c2 + 20 →
    ∃ v : State, runs (2 + n * (19 + t)) s = .next v.endWord ∧
      v.pos.list = s.pos.list ∧ v.pos.widx = s.pos.widx ∧ v.cfg = s.cfg ∧ v.fsm = s.fsm ∧ v.timer = 0 ∧
      v.rndIn = xs ∧ v.countOn = .is c1 ∧ v.countOff = .is c2 ∧
      v.trace.length = s.trace.length + 2 + 13 * n ∧ v.elapsed = s.elapsed + n * (6 + t)

/-- 42_patternengine.md R131, R132, R134, R139: a generator never writes OE or SRCLR, writes no init flag, panic role,
configuration, event or reset input, and leaves `t_cur` and `fsm` alone save at the end of a Step; only RandomRun takes
draws and writes counts, and it only in its draw phases. What follows the last micro-event of a word is done in its step
(log 2); a draw with none lined up is counted (log 6). -/
def Obligations.GeneratorFrame : Prop :=
  ∀ (s u : State) (t : Nat),
    exec (.sweep t) s = .next u ∨ exec (.alternate t) s = .next u ∨ exec (.randomRun t) s = .next u →
    u.pins.oe = s.pins.oe ∧ u.pins.srclr = s.pins.srclr ∧ u.init = s.init ∧ u.panicRole = s.panicRole ∧
    u.owed = s.owed ∧ u.cfg = s.cfg ∧ u.rstIn = s.rstIn ∧ u.evIn = s.evIn ∧
    ((u.tCur = s.tCur ∧ u.fsm = s.fsm) ∨ s.pos.sph = .delay) ∧
    (exec (.randomRun t) s ≠ .next u →
      u.countOn = s.countOn ∧ u.countOff = s.countOff ∧ u.rndIn = s.rndIn ∧ u.draws = s.draws) ∧
    (exec (.randomRun t) s = .next u → s.pos.gph = .body ∨ s.pos.gph = .flush →
      u.countOn = s.countOn ∧ u.countOff = s.countOff ∧ u.rndIn = s.rndIn ∧ u.draws = s.draws)

/-! ## Lists -/

/-- 43_modecontroller.md R172, R170, 10_state.md R31: when a word is done the next word of the list starts, with `t_cur`
loaded from it; after the last one `pos.list` is none, Boot and Auto go to TopMenu, and the other modes stay. These
assignments are made in the step of the word's last micro-event (log 2); a word without one is passed over (log 25),
which is not said here. -/
def Obligations.WordEndMovesOn : Prop :=
  (∀ (s : State) (w : OpWord) (e : Gph × OrUnknown Nat),
    (listWords s.cfg s.pos.list)[s.pos.widx + 1]? = some w → wordEntry s.cfg w = some e →
    s.endWord = { s with
      pos := { Pos.rest with list := s.pos.list, widx := s.pos.widx + 1, gph := e.1 }, tCur := e.2 }) ∧
  (∀ s : State, (listWords s.cfg s.pos.list).length ≤ s.pos.widx + 1 →
    (s.fsm = .auto ∨ s.fsm = .boot →
      s.endWord = { s with pos := Pos.rest, tCur := .unknown, fsm := .topMenu }) ∧
    (s.fsm = .manual ∨ s.fsm = .immediate → s.endWord = { s with pos := Pos.rest, tCur := .unknown }))

/-- 43_modecontroller.md R170, R172, 42_patternengine.md R146: `Center` in TopMenu runs every word of SCRIPT in
order and to completion, taking no event, and returns to TopMenu's TakeEvent; the trace is that of the words with
the draws lined up. The default SCRIPT is the 25 words of R146, beginning with ClearRegister, which take 24 draws
(R147), and its trace with every `count_on` 2 and every `count_off` 1 has 8764 micro-events and lasts 37754 ms
(R148). A generator word without a Step adds nothing to the trace (log 25). What follows a micro-event is done in
its step (log 2). -/
def Obligations.AutoRunsScriptAndReturns : Prop :=
  (∀ (s : State) (cs : List EvCode) (is : List Instr), s.rstIn = [] → s.fsm = .topMenu → s.pos = Pos.rest →
    s.timer = 0 → s.tCur = .unknown → s.init = allInit → s.evIn = 1 :: cs →
    s.cfg.script.map decodeWord = is.map .ok → drawsNeeded is ≤ s.rndIn.length →
    ∃ n u, runs n s = .next u ∧ u.fsm = .topMenu ∧ u.evReady = true ∧ u.evIn = cs ∧
      u.trace = s.trace ++ [.event .center] ++ (listTrace s.cfg is s.rndIn).1 ∧
      u.rndIn = (listTrace s.cfg is s.rndIn).2) ∧
  (Config.reference.script =
    [0x0000, 0x1064, 0x302C, 0x1064, 0x302C, 0x1064, 0x302C, 0x205A, 0x3021, 0x205A, 0x3021, 0x205A, 0x3021,
     0x1032, 0x302C, 0x2032, 0x302C, 0x1032, 0x302C, 0x2032, 0x302C, 0x1032, 0x302C, 0x2032, 0x302C]) ∧
  (Config.reference.script.map decodeWord = autoSequence.map .ok) ∧ autoSequence.length = 25 ∧
  drawsNeeded autoSequence = 24 ∧
  (listTrace Config.reference autoSequence (List.replicate 12 [1, 0]).flatten).1.length = 8764 ∧
  waitSum (listTrace Config.reference autoSequence (List.replicate 12 [1, 0]).flatten).1 = 37754

/-! ## Invariants and whole-machine rules -/

/-- 10_state.md R34, R35: the invariant holds after reset, under any configuration. Boot's place in its loop, of
which the invariant speaks, is read off `init` (log 28). -/
def Obligations.InvariantAtReset : Prop :=
  State.reset.Inv ∧ ∀ c : Config, (State.resetWith c).Inv

/-- 10_state.md R35, R22, R26, R27, R30: every step keeps the invariant. The register and its width are the
environment's (20_memory.md R62, log 9). Boot's place in its loop, of which the invariant speaks, is read off `init`
(log 28). -/
def Obligations.InvariantKept : Prop :=
  ∀ s t : State, s.Inv → step s = .next t → t.Inv

/-- 10_state.md R35 (a), (b), (d), (f), (g), 20_memory.md R62: what the invariant says in the spec's own terms. The
register is the environment (log 9). -/
def Obligations.InvariantMeaning : Prop :=
  ∀ s : State, s.Inv →
    (∀ r, s.pins.get r ≠ .unknown → s.init.get r = true) ∧
    (s.fsm ≠ .boot → s.fsm ≠ .panic → ∀ r, s.init.get r = true) ∧
    (∀ t, s.cfg.rrMod = 4 → s.cfg.rrBase = 1 → s.current = some (.randomRun t) →
      s.pos.gph = .body ∨ s.pos.gph = .flush →
      ∃ c1 c2, s.countOn = .is c1 ∧ s.countOff = .is c2 ∧ 1 ≤ c1 ∧ c1 ≤ 4 ∧ 1 ≤ c2 ∧ c2 ≤ 4) ∧
    ¬(s.evReady = true ∧ s.busy = true) ∧
    (s.fsm = .auto → s.pos.list = .script) ∧
    s.ext.sh.length = s.cfg.regWidth ∧ s.ext.st.length = s.cfg.regWidth

/-- 20_memory.md R53, 10_state.md R35 (c): every access is a write of one bit to one role at its `W r l` event, and no
other pin changes at that event; the external register changes only there, as 20_memory.md R62 says (environment,
log 9). -/
def Obligations.PinsChangeOnlyAtWriteEvents : Prop :=
  ∀ s t : State, s.noReset → step s = .next t →
    (t.pins = s.pins ∧ t.ext = s.ext ∧ ∀ r l, t.trace ≠ s.trace ++ [.write r l]) ∨
    ∃ r l, t.trace = s.trace ++ [.write r l] ∧ t.pins.get r = .is l ∧
      (∀ q, q ≠ r → t.pins.get q = s.pins.get q) ∧ t.ext = s.ext.react s.pins r l

/-- 43_modecontroller.md R174: a step is one micro-event; the steps that emit none are a millisecond of a Wait
(10_state.md R27), a TakeEvent with no event offered (R162) and a terminal state (log 1, log 14). -/
def Obligations.OneMicroEventPerStep : Prop :=
  ∀ s t : State, s.Inv → s.noReset → step s = .next t →
    (∃ e, t.trace = s.trace ++ [e] ∧ s.timer = 0) ∨
    (t.trace = s.trace ∧
      ((s.timer ≠ 0 ∧ t.timer + 1 = s.timer) ∨ (s.evReady = true ∧ s.evIn = [] ∧ t = { s with rstIn := t.rstIn }) ∨
        ((s.fsm = .exit ∨ s.fsm = .panic) ∧ t = { s with rstIn := t.rstIn })))

/-- 20_memory.md R55, 70_reset_and_hazards.md R221: no step depends on the pin record or on the external register:
two states that differ only there have steps that differ only there. -/
def Obligations.OpenLoop : Prop :=
  ∀ s1 s2 : State, s1.blind = s2.blind → blindOutcome (step s1) = blindOutcome (step s2)

/-- 20_memory.md R60, 10_state.md R28: no step writes the script, the dispatch lists or any other constant. -/
def Obligations.ConfigurationNeverWritten : Prop :=
  ∀ s t : State, step s = .next t → t.cfg = s.cfg ∧ ∀ l, listWords t.cfg l = listWords s.cfg l

/-- 70_reset_and_hazards.md R228, 10_state.md R32: `elapsed` is the sum of the `D` durations of the trace. Both are
ghost fields, which a reset begins anew (log 22). -/
def Obligations.ElapsedIsSumOfWaits : Prop :=
  ∀ s t : State, s.elapsed = waitSum s.trace → step s = .next t → t.elapsed = waitSum t.trace

/-- 70_reset_and_hazards.md R222, 41_actionset.md R120: while no EnableOutputInverted stands in SCRIPT or RESET_ACTIONS,
OE is never driven and what the outputs show is not known. What the outputs show is the environment of 20_memory.md R62
(log 9). -/
def Obligations.OutputEnableNeverDriven : Prop :=
  ∀ s t : State, s.pins.oe = .unknown → Action.enableOutputInverted ∉ s.cfg.resetActions →
    Action.enableOutputInverted.word ∉ s.cfg.script → step s = .next t →
    t.pins.oe = .unknown ∧ t.outputs = .notKnown

/-- 70_reset_and_hazards.md R224: SRCLR becomes low only at the first write of a ClearRegister; once high it stays high
but for those pulses. -/
def Obligations.ClearLineFallsOnlyInClearRegister : Prop :=
  ∀ s t : State, s.noReset → step s = .next t → t.pins.srclr ≠ s.pins.srclr →
    (t.pins.srclr = .is false ∧ s.current = some .clearRegister ∧ s.pos.u = 0) ∨
    (t.pins.srclr = .is true ∧
      ((s.current = some .clearRegister ∧ s.pos.u = 2) ∨ s.current = some .clearRegisterInverted))

/-- 42_patternengine.md R138, R141, 60_exceptions.md R201: a draw is taken exactly in the steps where `rnd_req` is true,
which are the two draw phases of a RandomRun. With none lined up the draw is a free value, counted in
`draws` (log 6). -/
def Obligations.DrawsOnlyWhenRequested : Prop :=
  ∀ s t : State, s.Inv → s.noReset → step s = .next t →
    (s.rndReq = true → ∃ x, t.trace = s.trace ++ [.draw x]) ∧
    (s.rndReq = false → t.rndIn = s.rndIn ∧ t.draws = s.draws ∧ t.countOn = s.countOn ∧
      t.countOff = s.countOff ∧ ∀ x, t.trace ≠ s.trace ++ [.draw x])

/-- 60_exceptions.md R190, R191, R192: no Action, generator, event or mode can raise the panic: a step that is not
reset enters Panic only from Boot, at a failing init. Boot's place in its loop is read off `init` (log 28). -/
def Obligations.PanicOnlyAtFailingInit : Prop :=
  ∀ s t : State, s.fsm ≠ .panic → step s = .next t → t.fsm = .panic →
    s.fsm = .boot ∧ ∃ r, s.nextInit = some r ∧ s.cfg.initOk.get r = false ∧ t.panicRole = some r

/-- 43_modecontroller.md R160: every change of the ModeController state is a row of the transition table, or reset.
`fsm` changes in the step of the micro-event before the change (log 2), to Exit or Panic before `F` or `P r` (log 3). -/
def Obligations.TransitionsAreTheTable : Prop :=
  ∀ s t : State, s.Inv → s.noReset → step s = .next t → t.fsm ≠ s.fsm →
    (s.fsm = .boot ∧ (t.fsm = .topMenu ∨ t.fsm = .panic)) ∨
    (s.fsm = .topMenu ∧ ∃ e, t.trace = s.trace ++ [.event e] ∧
      ((e = .left ∧ t.fsm = .manual) ∨ (e = .center ∧ t.fsm = .auto) ∨ (e = .right ∧ t.fsm = .immediate) ∨
        (e = .back ∧ t.fsm = .exit))) ∨
    ((s.fsm = .manual ∨ s.fsm = .immediate) ∧ t.fsm = .topMenu ∧ t.trace = s.trace ++ [.event .back]) ∨
    (s.fsm = .auto ∧ t.fsm = .topMenu ∧ t.pos.list = .none)

/-- 20_memory.md R62: the reaction of the external register to each pin write, with each level the two clocks and the
clear line can have (the environment; its parts from general knowledge are in log 9). -/
def Obligations.ExternalRegisterReacts : Prop :=
  ∀ (x : ExtReg) (p : PerRole (OrUnknown Level)) (l : Level),
    x.react p .srclr false = ⟨Stage.zero x.sh.length, x.st⟩ ∧
    (p.srclk = .is true → x.react p .srclk true = x) ∧
    (p.srclk = .is false → p.srclr = .is true → x.react p .srclk true = ⟨x.sh.shift p.ser, x.st⟩) ∧
    (p.srclk = .is false → p.srclr = .is false → x.react p .srclk true = ⟨Stage.zero x.sh.length, x.st⟩) ∧
    (p.srclk = .is false → p.srclr = .unknown →
      x.react p .srclk true = ⟨(x.sh.shift p.ser).join (Stage.zero x.sh.length), x.st⟩) ∧
    (p.srclk = .unknown → p.srclr = .is true →
      x.react p .srclk true = ⟨(x.sh.shift p.ser).join x.sh, x.st⟩) ∧
    (p.srclk = .unknown → p.srclr = .is false →
      x.react p .srclk true = ⟨(Stage.zero x.sh.length).join x.sh, x.st⟩) ∧
    (p.srclk = .unknown → p.srclr = .unknown →
      x.react p .srclk true = ⟨((x.sh.shift p.ser).join (Stage.zero x.sh.length)).join x.sh, x.st⟩) ∧
    (p.rclk = .is true → x.react p .rclk true = x) ∧
    (p.rclk = .is false → x.react p .rclk true = ⟨x.sh, x.sh⟩) ∧
    (p.rclk = .unknown → x.react p .rclk true = ⟨x.sh, x.st.join x.sh⟩) ∧
    x.react p .srclr true = x ∧ x.react p .srclk false = x ∧ x.react p .rclk false = x ∧
    x.react p .ser l = x ∧ x.react p .oe l = x

/-- 10_state.md R29: each status flag is true exactly when the state says so; 30_encoding.md R77: the code on
`fsm_state`; 20_memory.md R51, 70_reset_and_hazards.md R211: `init_req` is raised for the one role whose init boot
makes next. That role is the first with `init` false (log 28). -/
def Obligations.FlagsFollowState : Prop :=
  ∀ s : State,
    (s.evReady = true ↔ (s.fsm = .topMenu ∨ s.fsm = .manual ∨ s.fsm = .immediate) ∧ s.pos.list = .none) ∧
    (s.rndReq = true ↔ (∃ t, s.current = some (.randomRun t)) ∧ (s.pos.gph = .drawOn ∨ s.pos.gph = .drawOff)) ∧
    (s.busy = true ↔ s.fsm = .boot ∨ s.pos.list ≠ .none) ∧
    (s.farewell = true ↔ s.fsm = .exit) ∧ (s.panic = true ↔ s.fsm = .panic) ∧
    (s.fsm = .panic → s.panicCode = s.panicRole.map Role.code) ∧
    s.fsmState = (match s.fsm with
      | .topMenu => 0 | .manual => 1 | .auto => 2 | .immediate => 3 | .exit => 4 | .boot => 5 | .panic => 6) ∧
    s.fsmState ≠ 7 ∧
    (∀ r, s.initReq = some r ↔ s.fsm = .boot ∧ s.nextInit = some r)
end

