-- ==== Sys2Proof/Laws/Decode.lean ====
section
/-! SUPPORT. The fields of an operation word as arithmetic, and the word of a generator (30_encoding.md R71, R72). -/

namespace Sys2Proof

theorem opClass_eq (w : OpWord) : opClass w = w.toNat / 4096 := by
  have := w.isLt
  simp only [opClass, BitVec.extractLsb'_toNat, Nat.shiftRight_eq_div_pow]
  omega

theorem opT_eq (w : OpWord) : opT w = w.toNat % 4096 := by
  simp [opT, BitVec.extractLsb'_toNat]

theorem opZero_eq (w : OpWord) : opZero w = w.toNat / 8 % 512 := by
  simp [opZero, BitVec.extractLsb'_toNat, Nat.shiftRight_eq_div_pow]

theorem opAct_eq (w : OpWord) : opAct w = w.toNat % 8 := by
  simp [opAct, BitVec.extractLsb'_toNat]

theorem genWord_toNat (c t : Nat) (hc : c < 16) (ht : t < 4096) : (genWord c t).toNat = c * 4096 + t := by
  simp only [genWord, BitVec.toNat_append, BitVec.toNat_ofNat]
  rw [← Nat.shiftLeft_add_eq_or_of_lt (by omega), Nat.shiftLeft_eq]
  omega

/-- Action codes from 6 up are reserved (30_encoding.md R74). -/
theorem decodeAction_reserved {n : Nat} (h : 6 ≤ n) : decodeAction n = none := by
  match n, h with
  | _ + 6, _ => rfl

theorem Action.instr_not_event (a : Action) :
    a.instr ≠ .left ∧ a.instr ≠ .center ∧ a.instr ≠ .right ∧ a.instr ≠ .back := by
  cases a <;> simp [Action.instr]

/-- No operation word is an event: the EVT rows are codes of the event port (30_encoding.md R80). -/
theorem decodeWord_not_event {w : OpWord} {i : Instr} (h : decodeWord w = .ok i) :
    i ≠ .left ∧ i ≠ .center ∧ i ≠ .right ∧ i ≠ .back := by
  unfold decodeWord at h
  split at h
  · split at h
    · cases h
    · split at h
      · next a _ => cases h; exact a.instr_not_event
      · cases h
  all_goals cases h
  all_goals simp

/-- The word of an Action is that Action (30_encoding.md R73). -/
@[simp] theorem decodeWord_actionWord (a : Action) : decodeWord a.word = .ok a.instr := by cases a <;> rfl

end Sys2Proof
end

