-- ==== Sys2Proof/Laws/External.lean ====
section
/-! SUPPORT. The stages of the external register keep their width, and the pads follow the latches. -/

namespace Sys2Proof.Machine

@[simp] theorem Stage.length_fill (w : Nat) (b : OrUnknown Level) : (Stage.fill w b).length = w := by simp [Stage.fill]

@[simp] theorem Stage.length_zero (w : Nat) : (Stage.zero w).length = w := by simp [Stage.zero]

@[simp] theorem Stage.length_shift (a : Stage) (s : OrUnknown Level) : (a.shift s).length = a.length := by
  simp [Stage.shift]

@[simp] theorem Stage.length_join (a b : Stage) : (a.join b).length = min a.length b.length := by simp [Stage.join]

/-- The merge of a stage with itself. -/
@[simp] theorem Stage.join_self (a : Stage) : a.join a = a := by
  induction a with
  | nil => rfl
  | cons b a ih =>
    show joinBit b b :: Stage.join a a = b :: a
    rw [ih, joinBit, if_pos rfl]

/-- What an edge of SRCLK gives has the stage's width. -/
@[simp] theorem ExtReg.length_clockIn (e : ExtReg) (p : PerRole (OrUnknown Level)) :
    (e.clockIn p).length = e.sh.length := by
  unfold ExtReg.clockIn
  split <;> simp

/-- No reaction changes the width of the shift stage. -/
@[simp] theorem ExtReg.length_react_sh (e : ExtReg) (p : PerRole (OrUnknown Level)) (r : Role) (l : Level) :
    (e.react p r l).sh.length = e.sh.length := by
  unfold ExtReg.react
  split
  · simp
  · split <;> simp
  · split <;> simp
  · rfl

/-- No reaction changes the width of the storage stage, if it was that of the shift stage. -/
theorem ExtReg.length_react_st (e : ExtReg) (p : PerRole (OrUnknown Level)) (r : Role) (l : Level)
    (h : e.st.length = e.sh.length) : (e.react p r l).st.length = e.st.length := by
  unfold ExtReg.react
  split
  · rfl
  · split <;> rfl
  · split <;> simp [h]
  · rfl

@[simp] theorem PerRole.get_set {α : Type} (p : PerRole α) (r q : Role) (v : α) :
    (p.set r v).get q = if q = r then v else p.get q := by
  cases r <;> cases q <;> simp [PerRole.set, PerRole.get]

end Sys2Proof.Machine
end

