-- ==== Sys2Proof/Laws/State.lean ====
section
/-! SUPPORT. What each named update of the state does to each field (one lemma a field, by rfl), and the get and set
laws of a per-role record. -/

namespace Sys2Proof

theorem PerRole.get_set_same {α : Type} (p : PerRole α) (r : Role) (v : α) : (p.set r v).get r = v := by
  cases r <;> rfl

theorem PerRole.get_set_other {α : Type} (p : PerRole α) {r q : Role} (v : α) (h : q ≠ r) :
    (p.set r v).get q = p.get q := by
  cases r <;> cases q <;> first | rfl | exact absurd rfl h

/-- Two per-role records are equal if they agree at every role. -/
theorem PerRole.ext_get {α : Type} {p q : PerRole α} (h : ∀ r, p.get r = q.get r) : p = q := by
  cases p; cases q
  have h1 := h .ser; have h2 := h .oe; have h3 := h .rclk; have h4 := h .srclk; have h5 := h .srclr
  simp only [PerRole.get] at h1 h2 h3 h4 h5
  subst h1 h2 h3 h4 h5
  rfl

namespace Machine

variable (s : State)

/-! ### emit -/

@[simp] theorem State.emit_pins (e : TraceEvent) : (s.emit e).pins = s.pins := rfl
@[simp] theorem State.emit_init (e : TraceEvent) : (s.emit e).init = s.init := rfl
@[simp] theorem State.emit_fsm (e : TraceEvent) : (s.emit e).fsm = s.fsm := rfl
@[simp] theorem State.emit_countOn (e : TraceEvent) : (s.emit e).countOn = s.countOn := rfl
@[simp] theorem State.emit_countOff (e : TraceEvent) : (s.emit e).countOff = s.countOff := rfl
@[simp] theorem State.emit_tCur (e : TraceEvent) : (s.emit e).tCur = s.tCur := rfl
@[simp] theorem State.emit_timer (e : TraceEvent) : (s.emit e).timer = s.timer := rfl
@[simp] theorem State.emit_pos (e : TraceEvent) : (s.emit e).pos = s.pos := rfl
@[simp] theorem State.emit_panicRole (e : TraceEvent) : (s.emit e).panicRole = s.panicRole := rfl
@[simp] theorem State.emit_owed (e : TraceEvent) : (s.emit e).owed = s.owed := rfl
@[simp] theorem State.emit_cfg (e : TraceEvent) : (s.emit e).cfg = s.cfg := rfl
@[simp] theorem State.emit_rstIn (e : TraceEvent) : (s.emit e).rstIn = s.rstIn := rfl
@[simp] theorem State.emit_evIn (e : TraceEvent) : (s.emit e).evIn = s.evIn := rfl
@[simp] theorem State.emit_rndIn (e : TraceEvent) : (s.emit e).rndIn = s.rndIn := rfl
@[simp] theorem State.emit_draws (e : TraceEvent) : (s.emit e).draws = s.draws := rfl
@[simp] theorem State.emit_ext (e : TraceEvent) : (s.emit e).ext = s.ext := rfl
@[simp] theorem State.emit_trace (e : TraceEvent) : (s.emit e).trace = s.trace ++ [e] := rfl
@[simp] theorem State.emit_elapsed (e : TraceEvent) : (s.emit e).elapsed = s.elapsed := rfl

/-! ### setU -/

@[simp] theorem State.setU_pins (u : Nat) : (s.setU u).pins = s.pins := rfl
@[simp] theorem State.setU_init (u : Nat) : (s.setU u).init = s.init := rfl
@[simp] theorem State.setU_fsm (u : Nat) : (s.setU u).fsm = s.fsm := rfl
@[simp] theorem State.setU_countOn (u : Nat) : (s.setU u).countOn = s.countOn := rfl
@[simp] theorem State.setU_countOff (u : Nat) : (s.setU u).countOff = s.countOff := rfl
@[simp] theorem State.setU_tCur (u : Nat) : (s.setU u).tCur = s.tCur := rfl
@[simp] theorem State.setU_timer (u : Nat) : (s.setU u).timer = s.timer := rfl
@[simp] theorem State.setU_pos (u : Nat) : (s.setU u).pos = { s.pos with u := u } := rfl
@[simp] theorem State.setU_panicRole (u : Nat) : (s.setU u).panicRole = s.panicRole := rfl
@[simp] theorem State.setU_owed (u : Nat) : (s.setU u).owed = s.owed := rfl
@[simp] theorem State.setU_cfg (u : Nat) : (s.setU u).cfg = s.cfg := rfl
@[simp] theorem State.setU_rstIn (u : Nat) : (s.setU u).rstIn = s.rstIn := rfl
@[simp] theorem State.setU_evIn (u : Nat) : (s.setU u).evIn = s.evIn := rfl
@[simp] theorem State.setU_rndIn (u : Nat) : (s.setU u).rndIn = s.rndIn := rfl
@[simp] theorem State.setU_draws (u : Nat) : (s.setU u).draws = s.draws := rfl
@[simp] theorem State.setU_ext (u : Nat) : (s.setU u).ext = s.ext := rfl
@[simp] theorem State.setU_trace (u : Nat) : (s.setU u).trace = s.trace := rfl
@[simp] theorem State.setU_elapsed (u : Nat) : (s.setU u).elapsed = s.elapsed := rfl

/-! ### pinWrite -/

@[simp] theorem State.pinWrite_pins (r : Role) (l : Level) : (s.pinWrite r l).pins = s.pins.set r (.is l) := rfl
@[simp] theorem State.pinWrite_init (r : Role) (l : Level) : (s.pinWrite r l).init = s.init := rfl
@[simp] theorem State.pinWrite_fsm (r : Role) (l : Level) : (s.pinWrite r l).fsm = s.fsm := rfl
@[simp] theorem State.pinWrite_countOn (r : Role) (l : Level) : (s.pinWrite r l).countOn = s.countOn := rfl
@[simp] theorem State.pinWrite_countOff (r : Role) (l : Level) : (s.pinWrite r l).countOff = s.countOff := rfl
@[simp] theorem State.pinWrite_tCur (r : Role) (l : Level) : (s.pinWrite r l).tCur = s.tCur := rfl
@[simp] theorem State.pinWrite_timer (r : Role) (l : Level) : (s.pinWrite r l).timer = s.timer := rfl
@[simp] theorem State.pinWrite_pos (r : Role) (l : Level) : (s.pinWrite r l).pos = s.pos := rfl
@[simp] theorem State.pinWrite_panicRole (r : Role) (l : Level) : (s.pinWrite r l).panicRole = s.panicRole := rfl
@[simp] theorem State.pinWrite_owed (r : Role) (l : Level) : (s.pinWrite r l).owed = s.owed := rfl
@[simp] theorem State.pinWrite_cfg (r : Role) (l : Level) : (s.pinWrite r l).cfg = s.cfg := rfl
@[simp] theorem State.pinWrite_rstIn (r : Role) (l : Level) : (s.pinWrite r l).rstIn = s.rstIn := rfl
@[simp] theorem State.pinWrite_evIn (r : Role) (l : Level) : (s.pinWrite r l).evIn = s.evIn := rfl
@[simp] theorem State.pinWrite_rndIn (r : Role) (l : Level) : (s.pinWrite r l).rndIn = s.rndIn := rfl
@[simp] theorem State.pinWrite_draws (r : Role) (l : Level) : (s.pinWrite r l).draws = s.draws := rfl
@[simp] theorem State.pinWrite_ext (r : Role) (l : Level) : (s.pinWrite r l).ext = s.ext.react s.pins r l := rfl
@[simp] theorem State.pinWrite_trace (r : Role) (l : Level) : (s.pinWrite r l).trace = s.trace ++ [.write r l] := rfl
@[simp] theorem State.pinWrite_elapsed (r : Role) (l : Level) : (s.pinWrite r l).elapsed = s.elapsed := rfl

/-! ### beginWait -/

@[simp] theorem State.beginWait_pins (d : Nat) : (s.beginWait d).pins = s.pins := rfl
@[simp] theorem State.beginWait_init (d : Nat) : (s.beginWait d).init = s.init := rfl
@[simp] theorem State.beginWait_fsm (d : Nat) : (s.beginWait d).fsm = s.fsm := rfl
@[simp] theorem State.beginWait_countOn (d : Nat) : (s.beginWait d).countOn = s.countOn := rfl
@[simp] theorem State.beginWait_countOff (d : Nat) : (s.beginWait d).countOff = s.countOff := rfl
@[simp] theorem State.beginWait_tCur (d : Nat) : (s.beginWait d).tCur = s.tCur := rfl
@[simp] theorem State.beginWait_timer (d : Nat) : (s.beginWait d).timer = d := rfl
@[simp] theorem State.beginWait_pos (d : Nat) : (s.beginWait d).pos = s.pos := rfl
@[simp] theorem State.beginWait_panicRole (d : Nat) : (s.beginWait d).panicRole = s.panicRole := rfl
@[simp] theorem State.beginWait_owed (d : Nat) : (s.beginWait d).owed = s.owed := rfl
@[simp] theorem State.beginWait_cfg (d : Nat) : (s.beginWait d).cfg = s.cfg := rfl
@[simp] theorem State.beginWait_rstIn (d : Nat) : (s.beginWait d).rstIn = s.rstIn := rfl
@[simp] theorem State.beginWait_evIn (d : Nat) : (s.beginWait d).evIn = s.evIn := rfl
@[simp] theorem State.beginWait_rndIn (d : Nat) : (s.beginWait d).rndIn = s.rndIn := rfl
@[simp] theorem State.beginWait_draws (d : Nat) : (s.beginWait d).draws = s.draws := rfl
@[simp] theorem State.beginWait_ext (d : Nat) : (s.beginWait d).ext = s.ext := rfl
@[simp] theorem State.beginWait_trace (d : Nat) : (s.beginWait d).trace = s.trace ++ [.wait d] := rfl
@[simp] theorem State.beginWait_elapsed (d : Nat) : (s.beginWait d).elapsed = s.elapsed + d := rfl

/-! ### tick -/

@[simp] theorem State.tick_pins : s.tick.pins = s.pins := rfl
@[simp] theorem State.tick_init : s.tick.init = s.init := rfl
@[simp] theorem State.tick_fsm : s.tick.fsm = s.fsm := rfl
@[simp] theorem State.tick_countOn : s.tick.countOn = s.countOn := rfl
@[simp] theorem State.tick_countOff : s.tick.countOff = s.countOff := rfl
@[simp] theorem State.tick_tCur : s.tick.tCur = s.tCur := rfl
@[simp] theorem State.tick_timer : s.tick.timer = s.timer - 1 := rfl
@[simp] theorem State.tick_pos : s.tick.pos = s.pos := rfl
@[simp] theorem State.tick_panicRole : s.tick.panicRole = s.panicRole := rfl
@[simp] theorem State.tick_owed : s.tick.owed = s.owed := rfl
@[simp] theorem State.tick_cfg : s.tick.cfg = s.cfg := rfl
@[simp] theorem State.tick_rstIn : s.tick.rstIn = s.rstIn := rfl
@[simp] theorem State.tick_evIn : s.tick.evIn = s.evIn := rfl
@[simp] theorem State.tick_rndIn : s.tick.rndIn = s.rndIn := rfl
@[simp] theorem State.tick_draws : s.tick.draws = s.draws := rfl
@[simp] theorem State.tick_ext : s.tick.ext = s.ext := rfl
@[simp] theorem State.tick_trace : s.tick.trace = s.trace := rfl
@[simp] theorem State.tick_elapsed : s.tick.elapsed = s.elapsed := rfl

/-! ### leaveList -/

@[simp] theorem State.leaveList_pins : s.leaveList.pins = s.pins := rfl
@[simp] theorem State.leaveList_init : s.leaveList.init = s.init := rfl
@[simp] theorem State.leaveList_fsm :
    s.leaveList.fsm = match s.fsm with | .boot => .topMenu | .auto => .topMenu | f => f := rfl
@[simp] theorem State.leaveList_countOn : s.leaveList.countOn = s.countOn := rfl
@[simp] theorem State.leaveList_countOff : s.leaveList.countOff = s.countOff := rfl
@[simp] theorem State.leaveList_tCur : s.leaveList.tCur = .unknown := rfl
@[simp] theorem State.leaveList_timer : s.leaveList.timer = s.timer := rfl
@[simp] theorem State.leaveList_pos : s.leaveList.pos = Pos.rest := rfl
@[simp] theorem State.leaveList_panicRole : s.leaveList.panicRole = s.panicRole := rfl
@[simp] theorem State.leaveList_owed : s.leaveList.owed = s.owed := rfl
@[simp] theorem State.leaveList_cfg : s.leaveList.cfg = s.cfg := rfl
@[simp] theorem State.leaveList_rstIn : s.leaveList.rstIn = s.rstIn := rfl
@[simp] theorem State.leaveList_evIn : s.leaveList.evIn = s.evIn := rfl
@[simp] theorem State.leaveList_rndIn : s.leaveList.rndIn = s.rndIn := rfl
@[simp] theorem State.leaveList_draws : s.leaveList.draws = s.draws := rfl
@[simp] theorem State.leaveList_ext : s.leaveList.ext = s.ext := rfl
@[simp] theorem State.leaveList_trace : s.leaveList.trace = s.trace := rfl
@[simp] theorem State.leaveList_elapsed : s.leaveList.elapsed = s.elapsed := rfl

/-! ### raisePanic -/

@[simp] theorem State.raisePanic_pins (r : Role) : (s.raisePanic r).pins = s.pins := rfl
@[simp] theorem State.raisePanic_init (r : Role) : (s.raisePanic r).init = s.init := rfl
@[simp] theorem State.raisePanic_fsm (r : Role) : (s.raisePanic r).fsm = .panic := rfl
@[simp] theorem State.raisePanic_countOn (r : Role) : (s.raisePanic r).countOn = s.countOn := rfl
@[simp] theorem State.raisePanic_countOff (r : Role) : (s.raisePanic r).countOff = s.countOff := rfl
@[simp] theorem State.raisePanic_tCur (r : Role) : (s.raisePanic r).tCur = s.tCur := rfl
@[simp] theorem State.raisePanic_timer (r : Role) : (s.raisePanic r).timer = s.timer := rfl
@[simp] theorem State.raisePanic_pos (r : Role) : (s.raisePanic r).pos = Pos.rest := rfl
@[simp] theorem State.raisePanic_panicRole (r : Role) : (s.raisePanic r).panicRole = some r := rfl
@[simp] theorem State.raisePanic_owed (r : Role) : (s.raisePanic r).owed = true := rfl
@[simp] theorem State.raisePanic_cfg (r : Role) : (s.raisePanic r).cfg = s.cfg := rfl
@[simp] theorem State.raisePanic_rstIn (r : Role) : (s.raisePanic r).rstIn = s.rstIn := rfl
@[simp] theorem State.raisePanic_evIn (r : Role) : (s.raisePanic r).evIn = s.evIn := rfl
@[simp] theorem State.raisePanic_rndIn (r : Role) : (s.raisePanic r).rndIn = s.rndIn := rfl
@[simp] theorem State.raisePanic_draws (r : Role) : (s.raisePanic r).draws = s.draws := rfl
@[simp] theorem State.raisePanic_ext (r : Role) : (s.raisePanic r).ext = s.ext := rfl
@[simp] theorem State.raisePanic_trace (r : Role) : (s.raisePanic r).trace = s.trace := rfl
@[simp] theorem State.raisePanic_elapsed (r : Role) : (s.raisePanic r).elapsed = s.elapsed := rfl

end Machine
end Sys2Proof
end

