-- ==== Sys2Proof/Laws/Ops.lean ====
section
/-! SUPPORT. For each shared operation, one lemma that says everything it can do. -/

namespace Sys2Proof.Machine

/-! ### Walking the position: only `pos`, `tCur` and `fsm` move -/

/-- `t` is `s` but for the sequencer position, `t_cur` and the ModeController state. -/
def Walk (s t : State) : Prop := ∃ p c f, t = { s with pos := p, tCur := c, fsm := f }

theorem Walk.refl (s : State) : Walk s s := ⟨s.pos, s.tCur, s.fsm, rfl⟩

theorem Walk.trans {s t v : State} (h : Walk s t) (g : Walk t v) : Walk s v := by
  obtain ⟨_, _, _, rfl⟩ := h
  obtain ⟨p, c, f, rfl⟩ := g
  exact ⟨p, c, f, rfl⟩

theorem setU_walk (s : State) (u : Nat) : Walk s (s.setU u) := ⟨_, _, _, rfl⟩

theorem leaveList_walk (s : State) : Walk s s.leaveList := ⟨_, _, _, rfl⟩

/-- Where `enterFrom` ends: at the first word with a micro-event, `m` words on, or at the end of the list. -/
theorem enterFrom_cases (l : ListName) (ws : List OpWord) (n : Nat) (s : State) :
    (∃ m w e, ws[m]? = some w ∧ wordEntry s.cfg w = some e ∧ (∀ j v, j < m → ws[j]? = some v → wordEntry s.cfg v = none) ∧
      s.enterFrom l ws n = { s with pos := { Pos.rest with list := l, widx := n + m, gph := e.1 }, tCur := e.2 }) ∨
    ((∀ w ∈ ws, wordEntry s.cfg w = none) ∧ s.enterFrom l ws n = s.leaveList) := by
  induction ws generalizing n with
  | nil => exact .inr ⟨by simp, rfl⟩
  | cons w ws ih =>
    cases he : wordEntry s.cfg w with
    | some e => exact .inl ⟨0, w, e, rfl, he, by omega, by simp [State.enterFrom, he]⟩
    | none =>
      rcases ih (n + 1) with ⟨m, v, e, hv, hve, hskip, heq⟩ | ⟨hall, heq⟩
      · refine .inl ⟨m + 1, v, e, by simpa using hv, hve, ?_, ?_⟩
        · intro j x hj hx
          cases j with
          | zero => simp at hx; exact hx ▸ he
          | succ j => exact hskip j x (by omega) (by simpa using hx)
        · simp only [State.enterFrom, he, heq, show n + 1 + m = n + (m + 1) by omega]
      · refine .inr ⟨?_, ?_⟩
        · intro x hx
          rcases List.mem_cons.mp hx with rfl | hx
          · exact he
          · exact hall x hx
        · simp only [State.enterFrom, he, heq]

theorem enterFrom_walk (l : ListName) (ws : List OpWord) (n : Nat) (s : State) : Walk s (s.enterFrom l ws n) := by
  rcases enterFrom_cases l ws n s with ⟨_, _, _, _, _, _, h⟩ | ⟨_, h⟩ <;> rw [h]
  · exact ⟨_, _, _, rfl⟩
  · exact leaveList_walk s

theorem startList_walk (s : State) (l : ListName) : Walk s (s.startList l) := enterFrom_walk ..

theorem endWord_walk (s : State) : Walk s s.endWord := enterFrom_walk ..

theorem advanceAction_walk (a : Action) (s : State) : Walk s (s.advanceAction a) := by
  unfold State.advanceAction
  split
  · exact setU_walk ..
  · exact endWord_walk s

theorem advanceStep_walk (len : Nat) {after : State → State} (h : ∀ s, Walk s (after s)) (s : State) :
    Walk s (s.advanceStep len after) := by
  unfold State.advanceStep
  split
  · exact setU_walk ..
  · split
    · exact ⟨_, _, _, rfl⟩
    · exact ⟨_, _, _, rfl⟩
    · exact h s

theorem nextK_walk (bound : Nat) {done : State → State} (h : ∀ s, Walk s (done s)) (s : State) :
    Walk s (s.nextK bound done) := by
  unfold State.nextK
  split
  · exact ⟨_, _, _, rfl⟩
  · exact h s

theorem enterFlush_walk (s : State) : Walk s s.enterFlush := by
  unfold State.enterFlush
  split
  · exact endWord_walk s
  · exact ⟨_, _, _, rfl⟩

theorem nextSeg_walk (s : State) : Walk s s.nextSeg := by
  unfold State.nextSeg
  split
  · exact ⟨_, _, _, rfl⟩
  · exact ⟨_, _, _, rfl⟩
  · split
    · exact ⟨_, _, _, rfl⟩
    · exact enterFlush_walk s

/-! ### One micro-operation -/

/-- Everything a step at a micro-operation can do: a millisecond of a Wait, a completed write, a Wait begun, or a Wait
completed (10_state.md R27, R31; 40_pulsedriver.md R90, R91). -/
theorem runMicro_cases (s : State) (adv : State → State) (m : Option Micro) :
    (s.timer ≠ 0 ∧ s.runMicro adv m = s.tick) ∨
    (∃ r l, m = some (.write r l) ∧ s.timer = 0 ∧ s.runMicro adv m = adv (s.pinWrite r l)) ∨
    (∃ d, m = some (.wait d) ∧ s.timer = 0 ∧ d ≠ 0 ∧ s.runMicro adv m = s.beginWait d) ∨
    (m = some (.wait 0) ∧ s.timer = 0 ∧ s.runMicro adv m = adv (s.beginWait 0)) ∨
    (∃ d, m = some (.wait d) ∧ s.timer = 1 ∧ s.runMicro adv m = adv s.tick) ∨
    (m = none ∧ s.timer = 0 ∧ s.runMicro adv m = adv s) := by
  rcases m with _ | ⟨r, l⟩ | d
  · by_cases h : s.timer = 0 <;> simp [State.runMicro, h]
  · by_cases h : s.timer = 0
    · exact .inr (.inl ⟨r, l, rfl, h, by simp [State.runMicro, h]⟩)
    · exact .inl ⟨h, by simp [State.runMicro, h]⟩
  · by_cases h : s.timer = 0
    · by_cases hd : d = 0
      · subst hd; exact .inr (.inr (.inr (.inl ⟨rfl, h, by simp [State.runMicro, h]⟩)))
      · exact .inr (.inr (.inl ⟨d, rfl, h, hd, by simp [State.runMicro, h, hd]⟩))
    · by_cases h1 : s.timer = 1
      · exact .inr (.inr (.inr (.inr (.inl ⟨d, rfl, h1, by simp [State.runMicro, h1]⟩))))
      · exact .inl ⟨h, by simp [State.runMicro, h, h1]⟩

@[simp] theorem runMicro_write (s : State) (adv : State → State) (r : Role) (l : Level) (h : s.timer = 0) :
    s.runMicro adv (some (.write r l)) = adv (s.pinWrite r l) := by simp [State.runMicro, h]

theorem runMicro_wait_begin (s : State) (adv : State → State) (d : Nat) (h : s.timer = 0) (hd : d ≠ 0) :
    s.runMicro adv (some (.wait d)) = s.beginWait d := by simp [State.runMicro, h, hd]

theorem runMicro_wait_zero (s : State) (adv : State → State) (h : s.timer = 0) :
    s.runMicro adv (some (.wait 0)) = adv (s.beginWait 0) := by simp [State.runMicro, h]

theorem runMicro_wait_last (s : State) (adv : State → State) (d : Nat) (h : s.timer = 1) :
    s.runMicro adv (some (.wait d)) = adv s.tick := by simp [State.runMicro, h]

theorem runMicro_wait_more (s : State) (adv : State → State) (d : Nat) (h : 1 < s.timer) :
    s.runMicro adv (some (.wait d)) = s.tick := by
  simp [State.runMicro, show s.timer ≠ 0 by omega, show s.timer ≠ 1 by omega]

/-- What one step of a running word does before the position walks on: nothing but at most one micro-operation. -/
def MicroEffect (s t : State) : Prop :=
  t = s ∨ (s.timer ≠ 0 ∧ t = s.tick) ∨ (s.timer = 0 ∧ ∃ r l, t = s.pinWrite r l) ∨
    (s.timer = 0 ∧ ∃ d, t = s.beginWait d)

/-- A step at a micro-operation is one micro-effect, then a walk of the position. -/
theorem runMicro_effect (s : State) {adv : State → State} (h : ∀ s, Walk s (adv s)) (m : Option Micro) :
    ∃ b, MicroEffect s b ∧ Walk b (s.runMicro adv m) := by
  rcases runMicro_cases s adv m with ⟨ht, e⟩ | ⟨r, l, _, ht, e⟩ | ⟨d, _, ht, _, e⟩ | ⟨_, ht, e⟩ | ⟨d, _, ht, e⟩ | ⟨_, _, e⟩
  · exact ⟨_, .inr (.inl ⟨ht, rfl⟩), e ▸ Walk.refl _⟩
  · exact ⟨_, .inr (.inr (.inl ⟨ht, r, l, rfl⟩)), e ▸ h _⟩
  · exact ⟨_, .inr (.inr (.inr ⟨ht, d, rfl⟩)), e ▸ Walk.refl _⟩
  · exact ⟨_, .inr (.inr (.inr ⟨ht, 0, rfl⟩)), e ▸ h _⟩
  · exact ⟨_, .inr (.inl ⟨by omega, rfl⟩), e ▸ h _⟩
  · exact ⟨_, .inl rfl, e ▸ h _⟩

theorem actionStep_effect (s : State) (a : Action) : ∃ b, MicroEffect s b ∧ Walk b (s.actionStep a) :=
  runMicro_effect s (advanceAction_walk a) _

theorem genStep_effect (s : State) (v : Level) (t : Nat) {after : State → State} (h : ∀ s, Walk s (after s)) :
    ∃ b, MicroEffect s b ∧ Walk b (s.genStep v t after) :=
  runMicro_effect s (advanceStep_walk _ h) _

theorem sweepStep_effect (s : State) (t : Nat) : ∃ b, MicroEffect s b ∧ Walk b (s.sweepStep t) :=
  genStep_effect s _ t (nextK_walk _ endWord_walk)

theorem alternateStep_effect (s : State) (t : Nat) : ∃ b, MicroEffect s b ∧ Walk b (s.alternateStep t) :=
  genStep_effect s _ t (nextK_walk _ endWord_walk)

theorem bodyStep_effect (s : State) (t : Nat) : ∃ b, MicroEffect s b ∧ Walk b (s.bodyStep t) :=
  genStep_effect s _ t (nextK_walk _ nextSeg_walk)

theorem flushStep_effect (s : State) (t : Nat) : ∃ b, MicroEffect s b ∧ Walk b (s.flushStep t) :=
  genStep_effect s _ t (nextK_walk _ endWord_walk)

/-! ### Which word comes next depends on four fields -/

/-- What comes next is decided by `fsm`, `init`, `cfg`, `owed` and the place in the list. -/
theorem next_congr {s t : State} (hf : t.fsm = s.fsm) (hi : t.init = s.init) (hc : t.cfg = s.cfg)
    (ho : t.owed = s.owed) (hl : t.pos.list = s.pos.list) (hw : t.pos.widx = s.pos.widx) : t.next = s.next := by
  simp only [State.next, State.nextInit, State.fetchWord, hf, hi, hc, ho, hl, hw]

end Sys2Proof.Machine
end

