-- ==== Sys2Proof/Laws/PerInstr.lean ====
section
/-! SUPPORT. The family TableRow: the code of every well-formed instruction has the fixed bits that the mask and the match
of its row in spec/opcode_table.json give (30_encoding.md R80), one lemma per constructor. -/

namespace Sys2Proof.Laws.TableRow

/-- The mask and the match of the instruction's row. -/
def row : Instr → Nat × Nat
  | .clearRegister => (0xFFFF, 0x0000)
  | .clearRegisterInverted => (0xFFFF, 0x0001)
  | .enableOutputInverted => (0xFFFF, 0x0002)
  | .shiftZero => (0xFFFF, 0x0003)
  | .shiftOne => (0xFFFF, 0x0004)
  | .latch => (0xFFFF, 0x0005)
  | .sweep _ => (0xF000, 0x1000)
  | .alternate _ => (0xF000, 0x2000)
  | .randomRun _ => (0xF000, 0x3000)
  | .left => (0x3, 0x0)
  | .center => (0x3, 0x1)
  | .right => (0x3, 0x2)
  | .back => (0x3, 0x3)

/-- The bits of a code as a number. -/
def bits : Code → Nat
  | .op w => w.toNat
  | .ev c => c.toNat

/-- The fixed bits of the encoded instruction are its row's. -/
def Statement (i : Instr) : Prop := i.wellFormed = true → bits (encode i) &&& (row i).1 = (row i).2

theorem genWord_fixed (c t : Nat) (hc : c < 16) : (genWord c t).toNat &&& 0xF000 = c * 4096 := by
  have h : genWord c t &&& (BitVec.allOnes 4 ++ 0#12) = BitVec.ofNat 4 c ++ 0#12 := by
    rw [genWord, BitVec.and_append, BitVec.and_allOnes, BitVec.and_zero]
  have g := congrArg BitVec.toNat h
  rw [BitVec.toNat_and, BitVec.toNat_append, BitVec.toNat_append] at g
  simpa [Nat.shiftLeft_eq, Nat.mod_eq_of_lt hc] using g

theorem clearRegister : Statement .clearRegister := fun _ => rfl
theorem clearRegisterInverted : Statement .clearRegisterInverted := fun _ => rfl
theorem enableOutputInverted : Statement .enableOutputInverted := fun _ => rfl
theorem shiftZero : Statement .shiftZero := fun _ => rfl
theorem shiftOne : Statement .shiftOne := fun _ => rfl
theorem latch : Statement .latch := fun _ => rfl
theorem sweep (t : Nat) : Statement (.sweep t) := fun _ => genWord_fixed 1 t (by decide)
theorem alternate (t : Nat) : Statement (.alternate t) :=
  fun _ => genWord_fixed 2 t (by decide)
theorem randomRun (t : Nat) : Statement (.randomRun t) :=
  fun _ => genWord_fixed 3 t (by decide)
theorem left : Statement .left := fun _ => rfl
theorem center : Statement .center := fun _ => rfl
theorem right : Statement .right := fun _ => rfl
theorem back : Statement .back := fun _ => rfl

end Sys2Proof.Laws.TableRow
end

