-- ==== Sys2Proof/Laws/Step.lean ====
section
/-! SUPPORT. What one step can do, and how runs compose. -/

namespace Sys2Proof.Machine

/-! ### Runs -/

@[simp] theorem runs_zero (s : State) : runs 0 s = .next s := rfl

theorem runs_succ (n : Nat) (s : State) : runs (n + 1) s =
    (match step s with
     | .next t => runs n t
     | .fault r => .fault r
     | .refused r => .refused r) := rfl

/-- `n` applications of a step function, for any machine. -/
def iterate {σ φ ρ : Type} (f : σ → Host.Outcome σ φ ρ) : Nat → σ → Host.Outcome σ φ ρ
  | 0, x => .next x
  | n + 1, x =>
    match f x with
    | .next y => iterate f n y
    | .fault r => .fault r
    | .refused r => .refused r

theorem core_run_eq_iterate (M : Host.Core) (n : Nat) (x : M.State) : M.run n x = iterate M.step n x := by
  induction n generalizing x with
  | zero => rfl
  | succ n ih =>
    simp only [Host.Core.run, iterate]
    cases M.step x with
    | next y => exact ih y
    | fault r => rfl
    | refused r => rfl

theorem runs_eq_iterate (n : Nat) (s : State) : runs n s = iterate step n s := by
  induction n generalizing s with
  | zero => rfl
  | succ n ih =>
    simp only [runs, iterate]
    cases step s with
    | next t => exact ih t
    | fault r => rfl
    | refused r => rfl

/-- A run is a run of the host's core. -/
theorem runs_eq_core_run (n : Nat) (s : State) : runs n s = Host.Core.run Sys2Proof.core n s :=
  (runs_eq_iterate n s).trans (core_run_eq_iterate Sys2Proof.core n s).symm

theorem runs_succ_of_step {s t : State} (h : step s = .next t) (n : Nat) : runs (n + 1) s = runs n t := by
  rw [runs_succ, h]

theorem runs_one {s t : State} (h : step s = .next t) : runs 1 s = .next t := runs_succ_of_step h 0

/-- Runs compose. -/
theorem runs_add {s t : State} (m n : Nat) (h : runs m s = .next t) : runs (m + n) s = runs n t := by
  induction m generalizing s with
  | zero => simp only [runs_zero, Host.Outcome.next.injEq] at h; subst h; simp
  | succ m ih =>
    rw [runs_succ] at h
    rw [show m + 1 + n = (m + n) + 1 by omega, runs_succ]
    cases hs : step s with
    | next v => rw [hs] at h; exact ih h
    | fault r => rw [hs] at h; cases h
    | refused r => rw [hs] at h; cases h

/-! ### One step -/

/-- With no reset scheduled a step is a step of the sequencer. -/
theorem step_of_rstIn_nil {s : State} (h : s.rstIn = []) : step s = seqStep s := by
  simp only [step, h]

/-- The word at the position is decoded and run (43_modecontroller.md R173). -/
theorem seqStep_word {s : State} {w : OpWord} {i : Instr} (h : s.next = .word w) (hd : decodeWord w = .ok i) :
    seqStep s = exec i s := by
  simp only [seqStep, h, runWord, hd]

theorem step_word {s : State} {w : OpWord} {i : Instr} (hr : s.rstIn = []) (h : s.next = .word w)
    (hd : decodeWord w = .ok i) : step s = exec i s := by
  rw [step_of_rstIn_nil hr, seqStep_word h hd]

/-- What the meaning of an operation word can do: a micro-effect and a walk, or a Draw. -/
inductive WordEffect (s t : State) : Prop where
  | micro (b : State) (h : MicroEffect s b) (hw : Walk b t)
  | drawOn (h : s.timer = 0)
      (e : t = { s.afterDraw with countOn := .is (drawCount s.cfg s.drawValue), pos := { s.pos with gph := .drawOff } })
  | drawOff (h : s.timer = 0)
      (e : t = { s.afterDraw with
        countOff := .is (drawCount s.cfg s.drawValue)
        pos := { s.pos with gph := .body, cyc := 0, seg := .on1, k := 0, sph := .act, u := 0 } })

theorem randomRunStep_effect (s : State) (t : Nat) : WordEffect s (s.randomRunStep t) := by
  have tickCase (h : s.timer ≠ 0) : WordEffect s s.tick := .micro s.tick (.inr (.inl ⟨h, rfl⟩)) (Walk.refl _)
  unfold State.randomRunStep
  split
  · unfold State.drawOnStep
    split
    · next h => exact .drawOn h rfl
    · next h => exact tickCase h
  · unfold State.drawOffStep
    split
    · next h => exact .drawOff h rfl
    · next h => exact tickCase h
  · obtain ⟨b, h, hw⟩ := bodyStep_effect s t
    exact .micro b h hw
  · obtain ⟨b, h, hw⟩ := flushStep_effect s t
    exact .micro b h hw

/-- What an event can do at a TakeEvent, or nothing when the block is not at one (43_modecontroller.md R160, R171). -/
inductive EventEffect (s t : State) : Prop where
  | notTaken (h : s.evReady = false) (e : t = s)
  | taken (h : s.evReady = true) (e : Event) (hw : Walk (s.emit (.event e)) t)
  | exit (h : s.evReady = true) (hf : s.fsm = .topMenu)
      (e : t = { s.emit (.event .back) with fsm := .exit, owed := true })

theorem select_effect (s : State) (e : Event) (m : Fsm) (l1 l2 : ListName) : EventEffect s (s.select e m l1 l2) := by
  unfold State.select
  split
  · next h =>
    split
    · split
      · exact .taken h e (Walk.trans ⟨_, _, _, rfl⟩ (startList_walk _ _))
      · exact .taken h e ⟨_, _, _, rfl⟩
    · exact .taken h e (startList_walk _ _)
    · exact .taken h e (startList_walk _ _)
  · next h => exact .notTaken (by simpa using h) rfl

theorem cancel_effect (s : State) : EventEffect s s.cancel := by
  unfold State.cancel
  split
  · next h =>
    split
    · next hf => exact .exit h hf rfl
    · exact .taken h .back ⟨_, _, _, rfl⟩
  · next h => exact .notTaken (by simpa using h) rfl

/-- Everything `exec` can do: it always answers a next state, by an operation word or by an event
(60_exceptions.md R192). -/
theorem exec_effect (i : Instr) (s : State) : ∃ t, exec i s = .next t ∧ (WordEffect s t ∨ EventEffect s t) := by
  have act (a : Action) : WordEffect s (s.actionStep a) := by
    obtain ⟨b, h, hw⟩ := actionStep_effect s a
    exact .micro b h hw
  cases i with
  | clearRegister => exact ⟨_, rfl, .inl (act _)⟩
  | clearRegisterInverted => exact ⟨_, rfl, .inl (act _)⟩
  | enableOutputInverted => exact ⟨_, rfl, .inl (act _)⟩
  | shiftZero => exact ⟨_, rfl, .inl (act _)⟩
  | shiftOne => exact ⟨_, rfl, .inl (act _)⟩
  | latch => exact ⟨_, rfl, .inl (act _)⟩
  | sweep t =>
    obtain ⟨b, h, hw⟩ := sweepStep_effect s t
    exact ⟨_, rfl, .inl (.micro b h hw)⟩
  | alternate t =>
    obtain ⟨b, h, hw⟩ := alternateStep_effect s t
    exact ⟨_, rfl, .inl (.micro b h hw)⟩
  | randomRun t => exact ⟨_, rfl, .inl (randomRunStep_effect s t)⟩
  | left => exact ⟨_, rfl, .inr (select_effect ..)⟩
  | center => exact ⟨_, rfl, .inr (select_effect ..)⟩
  | right => exact ⟨_, rfl, .inr (select_effect ..)⟩
  | back => exact ⟨_, rfl, .inr (cancel_effect s)⟩

/-- Everything a step of the sequencer can do when it answers a next state. -/
inductive SeqEffect (s t : State) : Prop where
  | boot (r : Role) (h : s.next = .boot r) (hc : s.cfg.wellFormed = true) (e : t = s.bootInit r)
  | word (w : OpWord) (i : Instr) (h : s.next = .word w) (hd : decodeWord w = .ok i) (e : exec i s = .next t)
  | event (c : EvCode) (cs : List EvCode) (h : s.next = .takeEvent) (hi : s.evIn = c :: cs)
      (e : exec (decodeEvent c) { s with evIn := cs } = .next t)
  | blocked (h : s.next = .takeEvent) (hi : s.evIn = []) (e : t = s)
  | listOver (h : s.next = .listOver) (e : t = s.leaveList)
  | last (h : s.next = .last) (e : t = s.emitLast)
  | stopped (h : s.next = .stopped) (hr : s.rstIn ≠ []) (e : t = s)

theorem seqStep_effect {s t : State} (h : seqStep s = .next t) : SeqEffect s t := by
  unfold seqStep at h
  split at h
  · next r hn =>
    split at h
    · next hc => exact .boot r hn hc (by cases h; rfl)
    · cases h
  · next w hn =>
    unfold runWord at h
    split at h
    · next i hd => exact .word w i hn hd h
    · cases h
  · next hn =>
    unfold takeEvent at h
    split at h
    · next c cs hi => exact .event c cs hn hi h
    · next hi => exact .blocked hn hi (by cases h; rfl)
  · next hn => exact .listOver hn (by cases h; rfl)
  · next hn => exact .last hn (by cases h; rfl)
  · next hn =>
    split at h
    · cases h
    · next hr => exact .stopped hn hr (by cases h; rfl)

/-- Everything a step can do when it answers a next state: reset, or a step of the sequencer. -/
theorem step_cases {s t : State} (h : step s = .next t) :
    (∃ rs, s.rstIn = true :: rs ∧ t = State.takeReset { s with rstIn := rs }) ∨
    (∃ rs, s.rstIn = false :: rs ∧ SeqEffect { s with rstIn := rs } t) ∨
    (s.rstIn = [] ∧ SeqEffect s t) := by
  unfold step at h
  split at h
  · next rs hr => exact .inl ⟨rs, hr, by cases h; rfl⟩
  · next rs hr => exact .inr (.inl ⟨rs, hr, seqStep_effect h⟩)
  · next hr => exact .inr (.inr ⟨hr, seqStep_effect h⟩)

/-- What of a state only micro-events change: pins, register, trace, timer, `elapsed` and the configuration. -/
def State.seen (s : State) : PerRole (OrUnknown Level) × ExtReg × List TraceEvent × Nat × Nat × Config :=
  (s.pins, s.ext, s.trace, s.timer, s.elapsed, s.cfg)

/-- A micro-event that is neither a pin write nor a Wait. -/
def TraceEvent.plain : TraceEvent → Prop
  | .write _ _ => False
  | .wait _ => False
  | _ => True

/-- Everything a step that is not reset can do to what is seen: nothing, a millisecond, a write, a Wait begun, or one
other micro-event with no effect there (00_scope.md R10). -/
inductive Delta (s t : State) : Prop where
  | silent (h : t.seen = s.seen)
  | tick (ht : s.timer ≠ 0) (h : t.seen = s.tick.seen)
  | write (r : Role) (l : Level) (ht : s.timer = 0) (h : t.seen = (s.pinWrite r l).seen)
  | wait (d : Nat) (ht : s.timer = 0) (h : t.seen = (s.beginWait d).seen)
  | plain (e : TraceEvent) (he : e.plain) (h : t.seen = (s.emit e).seen)

theorem Walk.seen {s t : State} (h : Walk s t) : t.seen = s.seen := by
  obtain ⟨_, _, _, rfl⟩ := h
  rfl

theorem WordEffect.delta {s t : State} (h : WordEffect s t) : Delta s t := by
  have draw : ∃ x, s.afterDraw.seen = (s.emit (.draw x)).seen := by
    unfold State.afterDraw
    split <;> exact ⟨_, rfl⟩
  cases h with
  | micro b hb hw =>
    rcases hb with rfl | ⟨ht, rfl⟩ | ⟨ht, r, l, rfl⟩ | ⟨ht, d, rfl⟩
    · exact .silent hw.seen
    · exact .tick ht hw.seen
    · exact .write r l ht hw.seen
    · exact .wait d ht hw.seen
  | drawOn _ e =>
    obtain ⟨x, hx⟩ := draw
    exact .plain (.draw x) trivial (by rw [e]; exact hx)
  | drawOff _ e =>
    obtain ⟨x, hx⟩ := draw
    exact .plain (.draw x) trivial (by rw [e]; exact hx)

theorem EventEffect.delta {s t : State} (h : EventEffect s t) : Delta s t := by
  cases h with
  | notTaken _ e => exact .silent (by rw [e])
  | taken _ e hw => exact .plain (.event e) trivial hw.seen
  | exit _ _ e => exact .plain (.event .back) trivial (by rw [e]; rfl)

theorem exec_delta {i : Instr} {s t : State} (h : exec i s = .next t) : Delta s t := by
  obtain ⟨u, hu, hw⟩ := exec_effect i s
  rw [hu] at h
  cases h
  exact hw.elim WordEffect.delta EventEffect.delta

theorem SeqEffect.delta {s t : State} (h : SeqEffect s t) : Delta s t := by
  cases h with
  | boot r _ _ e =>
    refine .plain (.init r) trivial ?_
    rw [e]
    unfold State.bootInit
    split
    · unfold State.initDone
      dsimp only
      split <;> rfl
    · rfl
  | word w i _ _ e => exact exec_delta e
  | event c cs _ _ e =>
    cases exec_delta e with
    | silent h => exact .silent h
    | tick ht h => exact .tick ht h
    | write r l ht h => exact .write r l ht h
    | wait d ht h => exact .wait d ht h
    | plain e he h => exact .plain e he h
  | blocked _ _ e => exact .silent (by rw [e])
  | listOver _ e => exact .silent (by rw [e]; rfl)
  | last _ e =>
    rw [e]
    unfold State.emitLast
    split
    · next r _ _ => exact .plain (.panic r) trivial rfl
    · exact .silent rfl
    · exact .plain .farewell trivial rfl
  | stopped _ _ e => exact .silent (by rw [e])

/-- A step that is not reset is a step of the sequencer, the low level consumed. -/
theorem step_noReset {s t : State} (hn : s.rstIn.head? ≠ some true) (h : step s = .next t) :
    ∃ rs, SeqEffect { s with rstIn := rs } t := by
  rcases step_cases h with ⟨rs, hr, _⟩ | ⟨rs, _, e⟩ | ⟨hr, e⟩
  · rw [hr] at hn
    exact absurd rfl hn
  · exact ⟨rs, e⟩
  · exact ⟨[], by rw [← hr]; exact e⟩

theorem step_delta {s t : State} (hn : s.rstIn.head? ≠ some true) (h : step s = .next t) : Delta s t := by
  obtain ⟨rs, e⟩ := step_noReset hn h
  cases e.delta with
  | silent h => exact .silent h
  | tick ht h => exact .tick ht h
  | write r l ht h => exact .write r l ht h
  | wait d ht h => exact .wait d ht h
  | plain e he h => exact .plain e he h

/-- The micro-operation of a word at the position, if it is at one (10_state.md R30). -/
def State.micro (s : State) (i : Instr) : Option Micro :=
  let part (v : Level) (t : Nat) := (stepMicros s.cfg v (s.stepDelay t) s.pos.sph)[s.pos.u]?
  match i with
  | .clearRegister => (actionMicros s.cfg .clearRegister)[s.pos.u]?
  | .clearRegisterInverted => (actionMicros s.cfg .clearRegisterInverted)[s.pos.u]?
  | .enableOutputInverted => (actionMicros s.cfg .enableOutputInverted)[s.pos.u]?
  | .shiftZero => (actionMicros s.cfg .shiftZero)[s.pos.u]?
  | .shiftOne => (actionMicros s.cfg .shiftOne)[s.pos.u]?
  | .latch => (actionMicros s.cfg .latch)[s.pos.u]?
  | .sweep t => part (decide (s.pos.k < s.cfg.sweepHalf)) t
  | .alternate t => part (decide (s.pos.k % 2 = 0)) t
  | .randomRun t =>
    match s.pos.gph with
    | .drawOn => none
    | .drawOff => none
    | .body => part (decide (s.pos.seg ≠ .off)) t
    | .flush => part false t
  | .left => none
  | .center => none
  | .right => none
  | .back => none

theorem micro_action (s : State) (a : Action) : s.micro a.instr = (actionMicros s.cfg a)[s.pos.u]? := by cases a <;> rfl

theorem runMicro_pins (s : State) {adv : State → State} (h : ∀ s, Walk s (adv s)) (m : Option Micro) :
    ((s.runMicro adv m).pins = s.pins ∧ (s.runMicro adv m).ext = s.ext) ∨
    ∃ r l, m = some (.write r l) ∧ s.timer = 0 ∧ (s.runMicro adv m).pins = s.pins.set r (.is l) ∧
      (s.runMicro adv m).ext = s.ext.react s.pins r l := by
  have walk (b : State) : (adv b).pins = b.pins ∧ (adv b).ext = b.ext := by
    obtain ⟨_, _, _, e⟩ := h b
    rw [e]
    exact ⟨rfl, rfl⟩
  rcases runMicro_cases s adv m with ⟨_, e⟩ | ⟨r, l, hm, ht, e⟩ | ⟨d, _, _, _, e⟩ | ⟨_, _, e⟩ | ⟨d, _, _, e⟩ | ⟨_, _, e⟩
  · exact .inl (by rw [e]; exact ⟨rfl, rfl⟩)
  · exact .inr ⟨r, l, hm, ht, by rw [e]; exact walk _⟩
  · exact .inl (by rw [e]; exact ⟨rfl, rfl⟩)
  · exact .inl (by rw [e]; exact walk _)
  · exact .inl (by rw [e]; exact walk _)
  · exact .inl (by rw [e]; exact walk _)

/-- An instruction changes pins and register only by the write at its position (40_pulsedriver.md R90). -/
theorem exec_pins {i : Instr} {s t : State} (h : exec i s = .next t) :
    (t.pins = s.pins ∧ t.ext = s.ext) ∨
    ∃ r l, s.micro i = some (.write r l) ∧ s.timer = 0 ∧ t.pins = s.pins.set r (.is l) ∧
      t.ext = s.ext.react s.pins r l := by
  have act (a : Action) := runMicro_pins s (advanceAction_walk a) (actionMicros s.cfg a)[s.pos.u]?
  have gen (v : Level) (d : Nat) {after : State → State} (ha : ∀ s, Walk s (after s)) :=
    runMicro_pins s (advanceStep_walk (stepMicros s.cfg v (s.stepDelay d) s.pos.sph).length ha)
      (stepMicros s.cfg v (s.stepDelay d) s.pos.sph)[s.pos.u]?
  have draw : s.afterDraw.pins = s.pins ∧ s.afterDraw.ext = s.ext := by
    unfold State.afterDraw
    split <;> exact ⟨rfl, rfl⟩
  have ev (t : State) (e : EventEffect s t) : t.pins = s.pins ∧ t.ext = s.ext := by
    cases e with
    | notTaken _ e => rw [e]; exact ⟨rfl, rfl⟩
    | taken _ e hw => obtain ⟨_, _, _, rfl⟩ := hw; exact ⟨rfl, rfl⟩
    | exit _ _ e => rw [e]; exact ⟨rfl, rfl⟩
  cases i with
  | clearRegister => cases h; exact act .clearRegister
  | clearRegisterInverted => cases h; exact act .clearRegisterInverted
  | enableOutputInverted => cases h; exact act .enableOutputInverted
  | shiftZero => cases h; exact act .shiftZero
  | shiftOne => cases h; exact act .shiftOne
  | latch => cases h; exact act .latch
  | sweep d => cases h; exact gen _ d (nextK_walk _ endWord_walk)
  | alternate d => cases h; exact gen _ d (nextK_walk _ endWord_walk)
  | randomRun d =>
    cases h
    unfold State.randomRunStep State.micro
    cases s.pos.gph with
    | drawOn =>
      refine .inl ?_
      by_cases ht : s.timer = 0
      · simpa [State.drawOnStep, ht] using draw
      · simp [State.drawOnStep, ht, State.tick]
    | drawOff =>
      refine .inl ?_
      by_cases ht : s.timer = 0
      · simpa [State.drawOffStep, ht] using draw
      · simp [State.drawOffStep, ht, State.tick]
    | body => exact gen _ d (nextK_walk _ nextSeg_walk)
    | flush => exact gen _ d (nextK_walk _ endWord_walk)
  | left => cases h; exact .inl (ev _ (select_effect ..))
  | center => cases h; exact .inl (ev _ (select_effect ..))
  | right => cases h; exact .inl (ev _ (select_effect ..))
  | back => cases h; exact .inl (ev _ (cancel_effect s))

/-- At a TakeEvent the block is ready for an event, and only then (10_state.md R29). -/
theorem next_takeEvent_iff (s : State) : s.next = .takeEvent ↔ s.evReady = true := by
  unfold State.next State.evReady Fsm.takesEvents
  cases s.fsm <;> simp [State.fetchWord] <;> (repeat' split) <;> simp_all

end Sys2Proof.Machine
end

