-- ==== Sys2Proof/Laws/Traces.lean ====
section
/-! SUPPORT. The sizes of the spec's traces: micro-events and milliseconds of a Step and of the bits of each generator
(42_patternengine.md R130, R132, R134, R143). -/

namespace Sys2Proof.Machine

@[simp] theorem waitSum_append (a b : List TraceEvent) : waitSum (a ++ b) = waitSum a + waitSum b := by
  induction a with
  | nil => simp [waitSum]
  | cons e a ih => cases e <;> simp [waitSum, ih, Nat.add_assoc]

@[simp] theorem length_stepTrace (c : Config) (t : Nat) (v : Level) : (stepTrace c t v).length = 13 := rfl

@[simp] theorem waitSum_stepTrace (c : Config) (t : Nat) (v : Level) : waitSum (stepTrace c t v) = stepTime c t := by
  simp only [stepTrace, shiftTrace, latchTrace, List.cons_append, List.nil_append, waitSum, stepTime]
  omega

@[simp] theorem length_stepsTrace (c : Config) (t : Nat) (vs : List Level) :
    (stepsTrace c t vs).length = 13 * vs.length := by
  induction vs with
  | nil => rfl
  | cons v vs ih =>
    rw [stepsTrace, List.flatMap_cons, List.length_append, length_stepTrace, ← stepsTrace, ih, List.length_cons]
    omega

@[simp] theorem waitSum_stepsTrace (c : Config) (t : Nat) (vs : List Level) :
    waitSum (stepsTrace c t vs) = vs.length * stepTime c t := by
  induction vs with
  | nil => simp [stepsTrace, waitSum]
  | cons v vs ih =>
    rw [stepsTrace, List.flatMap_cons, waitSum_append, waitSum_stepTrace, ← stepsTrace, ih, List.length_cons,
      Nat.succ_mul]
    omega

@[simp] theorem length_sweepBits (c : Config) : (sweepBits c).length = 2 * c.sweepHalf := by
  simp [sweepBits]
  omega

@[simp] theorem length_alternateBits (c : Config) : (alternateBits c).length = c.altSteps := by simp [alternateBits]

@[simp] theorem length_repetitionBits (c1 c2 : Nat) : (repetitionBits c1 c2).length = 2 * (c1 + 1) + (c2 + 1) := by
  simp [repetitionBits]
  omega

@[simp] theorem length_randomRunBits (c : Config) (c1 c2 : Nat) :
    (randomRunBits c c1 c2).length = (c.rrCycles + 1) * (2 * (c1 + 1) + (c2 + 1)) + c.rrFlush := by
  simp [randomRunBits]

end Sys2Proof.Machine
end

