-- ==== Sys2Proof/Tests/Slice0.lean ====
section
/-! SUPPORT. The author's own tests: what is ill formed is refused, words written out bit by bit from 30_encoding.md,
one step of each instruction on a small state, and for each statement with hypotheses a state that meets them.
Expected values come from the spec rule named at each test. -/

namespace Sys2Proof.Tests
open Sys2Proof Sys2Proof.Machine

/-! ### Helpers -/

/-- The state an outcome answers. -/
def nextOf : Host.Outcome State Fault Refusal → Option State
  | .next t => some t
  | .fault _ => none
  | .refused _ => none

/-- The fault an outcome answers. -/
def faultOf : Host.Outcome State Fault Refusal → Option Fault
  | .next _ => none
  | .fault f => some f
  | .refused _ => none

/-- The refusal an outcome answers. -/
def refusalOf : Host.Outcome State Fault Refusal → Option Refusal
  | .next _ => none
  | .fault _ => none
  | .refused r => some r

/-- Boot over, at the TakeEvent of a mode. -/
def menu (f : Fsm) (evs : List EvCode) : State := { State.reset with init := allInit, fsm := f, evIn := evs }

/-- About to run the one-word SCRIPT. -/
def at0 (w : OpWord) : State := State.reset.placeWord w

/-- The same, at micro-event `u`. -/
def atU (w : OpWord) (u : Nat) : State := (at0 w).setU u

/-- The same, in a Step at index `k`, part `p`, micro-event `u`, with `t_cur` 100. -/
def inStepAt (w : OpWord) (k : Nat) (p : Sph) (u : Nat) : State :=
  { at0 w with pos := { (at0 w).pos with gph := .body, k := k, sph := p, u := u }, tCur := .is 100 }

/-- The micro-events an instruction adds in one step. -/
def emitted (i : Instr) (s : State) : Option (List TraceEvent) := (nextOf (exec i s)).map (·.trace.drop s.trace.length)

/-! ### Ill-formed terms are refused (30_encoding.md R72, R74; 93_implementation_defined.md U21) -/

theorem test_wf_sweep_4096_refused : (Instr.sweep 4096).wellFormed = false := by decide
theorem test_wf_alternate_4096_refused : (Instr.alternate 4096).wellFormed = false := by decide
theorem test_wf_randomRun_4096_refused : (Instr.randomRun 4096).wellFormed = false := by decide
theorem test_wf_operand_bounds : (Instr.sweep 4095).wellFormed = true ∧ (Instr.alternate 0).wellFormed = true := by decide
theorem test_wf_reserved_script_refused :
    ({ Config.reference with script := [0x0006] }).wellFormed = false ∧
    ({ Config.reference with script := [0x0008] }).wellFormed = false ∧
    ({ Config.reference with script := [0x4000] }).wellFormed = false := by decide
theorem test_wf_zero_modulus_refused : ({ Config.reference with rrMod := 0 }).wellFormed = false := by decide
/-- 00_scope.md R6: no sixth role; 20_memory.md R52: the PinMap is 1:1; log 26: delays of 0 are accepted. -/
theorem test_wf_roles_and_pins : ({ Config.reference with nRoles := 6 }).wellFormed = false ∧
    ({ Config.reference with pinMap := ⟨0, 1, 2, 2, 4⟩ }).wellFormed = false ∧
    ({ Config.reference with tUnit := 0, tHold := 0 }).wellFormed = true := by decide
/-- 00_scope.md R6: `T_HOLD` is `T_UNIT` unless given. -/
theorem test_default_hold : Config.reference.tHold = Config.reference.tUnit := by decide
/-- 10_state.md R21: the pad of a role's physical pin holds its latch. -/
theorem test_pad : ({ State.reset with pins := ⟨.unknown, .unknown, .is true, .unknown, .unknown⟩ }).pad 2 = some (.is true) ∧
    State.reset.pad 7 = none := by decide
theorem test_wf_reference : Config.reference.wellFormed = true := by decide

/-! ### Decoding, word by word (30_encoding.md R71 to R76) -/

theorem test_decode_clearRegister : decode (.op 0b0000000000000000) = .ok .clearRegister := by decide
theorem test_decode_clearRegisterInverted : decode (.op 0b0000000000000001) = .ok .clearRegisterInverted := by decide
theorem test_decode_enableOutputInverted : decode (.op 0b0000000000000010) = .ok .enableOutputInverted := by decide
theorem test_decode_shiftZero : decode (.op 0b0000000000000011) = .ok .shiftZero := by decide
theorem test_decode_shiftOne : decode (.op 0b0000000000000100) = .ok .shiftOne := by decide
theorem test_decode_latch : decode (.op 0b0000000000000101) = .ok .latch := by decide
/-- `Sweep@100` is `0x1064`. -/
theorem test_decode_sweep : decode (.op 0b0001000001100100) = .ok (.sweep 100) := by decide
/-- `Alternate@90` is `0x205A`. -/
theorem test_decode_alternate : decode (.op 0b0010000001011010) = .ok (.alternate 90) := by decide
/-- `RandomRun@44` is `0x302C`. -/
theorem test_decode_randomRun : decode (.op 0b0011000000101100) = .ok (.randomRun 44) := by decide
theorem test_decode_operand_top : decode (.op 0b0011111111111111) = .ok (.randomRun 4095) := by decide
theorem test_decode_left : decode (.ev 0b00) = .ok .left := by decide
theorem test_decode_center : decode (.ev 0b01) = .ok .center := by decide
theorem test_decode_right : decode (.ev 0b10) = .ok .right := by decide
theorem test_decode_back : decode (.ev 0b11) = .ok .back := by decide
theorem test_decode_reserved : decode (.op 0b0000000000000111) = .error .reservedAction ∧
    decode (.op 0b0000100000000101) = .error .nonZeroField ∧
    decode (.op 0b0100000000000000) = .error .reservedClass ∧
    decode (.op 0b1111000000000000) = .error .reservedClass := by decide
theorem test_encode_sweep : encode (.sweep 100) = .op 0x1064 := by decide
theorem test_table_word : decodeTableWord 16 0x205A = some (.alternate 90) ∧ decodeTableWord 8 2 = some .right ∧
    decodeTableWord 8 4 = none ∧ decodeTableWord 16 0x0006 = none := by decide

/-! ### The script (42_patternengine.md R146, R147): 25 words, 12 RandomRun -/

theorem test_script_size : Config.reference.script.length = 25 ∧
    (Config.reference.script.filter (fun w => opClass w = 3)).length = 12 := by decide
theorem test_autoSequence_text : (Pseudo.autoSequence.expand Config.reference).take 3 =
    (Pseudo.clear).expand Config.reference ++ (Pseudo.times 1 [0x1064, 0x302C]).expand Config.reference := by decide

/-! ### Rendering (00_scope.md R10) -/

theorem test_render : renderTrace [.write .srclr false, .wait 1, .draw 7, .event .left, .farewell, .panic .oe, .init .ser]
    = "W SRCLR 0\nD 1\nR 7\nE Left\nF\nP OE\nI SER\n" := by rfl

/-! ### Reset and boot (10_state.md R34, 70_reset_and_hazards.md R210, R211; 60_exceptions.md R190) -/

theorem test_boot_first_init : ((nextOf (step State.reset)).map (fun t => (t.trace, t.init.ser, t.fsm)))
    = some ([.init .ser], true, .boot) := by decide
theorem test_boot_init_failure : ((nextOf (step (State.resetWith
    { Config.reference with initOk := ⟨false, true, true, true, true⟩ }))).map (fun t => (t.trace, t.fsm, t.panicRole)))
    = some ([.init .ser], .panic, some .ser) := by decide
theorem test_reset_from_exit : ((nextOf (step { menu .exit [] with rstIn := [true] })).map (fun t => (t.fsm, t.init.ser)))
    = some (.boot, false) := by decide
theorem test_exit_is_terminal : faultOf (step (menu .exit [])) = some .exited := by decide
theorem test_reserved_script_refused_at_boot :
    refusalOf (step (State.resetWith { Config.reference with script := [0x0007] })) = some .illFormedConfig := by decide

/-! ### One step of each instruction -/

/-- 41_actionset.md R112: the pulse is low first, then `D 1` of T_HOLD, then high. -/
theorem test_clearRegister_low : emitted .clearRegister (at0 0x0000) = some [.write .srclr false] := by decide
theorem test_clearRegister_high : emitted .clearRegister (atU 0x0000 2) = some [.write .srclr true] := by decide
/-- 41_actionset.md R113: SRCLR high, one write, and the word is over. -/
theorem test_clearRegisterInverted : (nextOf (exec .clearRegisterInverted (at0 0x0001))).map
    (fun t => (t.trace, t.pins.srclr, t.pos.list, t.fsm)) = some ([.write .srclr true], .is true, .none, .topMenu) := by
  decide
/-- 41_actionset.md R114: OE low. -/
theorem test_enableOutputInverted : (nextOf (exec .enableOutputInverted (at0 0x0002))).map
    (fun t => (t.trace, t.pins.oe, t.pos.list)) = some ([.write .oe false], .is false, .none) := by decide
/-- 40_pulsedriver.md R94: the bit is on SER first; SRCLK rises third. -/
theorem test_shiftZero_ser : emitted .shiftZero (at0 0x0003) = some [.write .ser false] := by decide
theorem test_shiftZero_clock : emitted .shiftZero (atU 0x0003 2) = some [.write .srclk true] := by decide
theorem test_shiftOne_ser : emitted .shiftOne (at0 0x0004) = some [.write .ser true] := by decide
/-- 20_memory.md R62: a rising SRCLK with SRCLR high shifts SER into bit 0. -/
theorem test_shiftOne_register : (nextOf (exec .shiftOne { atU 0x0004 2 with
    pins := ⟨.is true, .unknown, .unknown, .is false, .is true⟩, ext := ⟨Stage.zero 8, Stage.zero 8⟩ })).map (·.ext.sh)
    = some [.is true, .is false, .is false, .is false, .is false, .is false, .is false, .is false] := by decide
/-- 41_actionset.md R117: RCLK high, then a wait of T_HOLD. -/
theorem test_latch_high : emitted .latch (at0 0x0005) = some [.write .rclk true] := by decide
theorem test_latch_wait : (nextOf (exec .latch (atU 0x0005 1))).map (fun t => (t.trace, t.timer)) = some ([.wait 1], 1) := by
  decide
/-- 42_patternengine.md R132: step 7 is the last ShiftOne, step 8 the first ShiftZero. -/
theorem test_sweep_first_half : emitted (.sweep 100) (inStepAt 0x1064 7 .act 0) = some [.write .ser true] := by decide
theorem test_sweep_second_half : emitted (.sweep 100) (inStepAt 0x1064 8 .act 0) = some [.write .ser false] := by decide
/-- 42_patternengine.md R134: odd index ShiftZero; the Step ends with Wait(t). -/
theorem test_alternate_odd : emitted (.alternate 100) (inStepAt 0x2064 15 .act 0) = some [.write .ser false] := by decide
theorem test_alternate_wait : emitted (.alternate 100) (inStepAt 0x2064 15 .delay 0) = some [.wait 100] := by decide
/-- 42_patternengine.md R137: the draw 7 gives `count_on` 4. -/
theorem test_randomRun_draw : (nextOf (exec (.randomRun 44) { at0 0x302C with rndIn := [7] })).map
    (fun t => (t.trace, t.countOn, t.pos.gph)) = some ([.draw 7], .is 4, .drawOff) := by decide
/-- 42_patternengine.md R140: `k` runs to `count` itself, so at `k = count` the segment ends. -/
theorem test_randomRun_off_by_one : (nextOf (exec (.randomRun 100) { inStepAt 0x3064 2 .delay 0 with
    tCur := .is 0, countOn := .is 2, countOff := .is 1 })).map (fun t => (t.pos.seg, t.pos.k)) = some (.off, 0) := by decide
/-- 43_modecontroller.md R176. -/
theorem test_left_topMenu : (nextOf (exec .left (menu .topMenu []))).map (·.fsm) = some .manual := by decide
theorem test_left_immediate : (nextOf (exec .left (menu .immediate []))).map (·.pos.list) = some .immL := by decide
/-- 43_modecontroller.md R177. -/
theorem test_center_topMenu : (nextOf (exec .center (menu .topMenu []))).map (fun t => (t.fsm, t.pos.list))
    = some (.auto, .script) := by decide
theorem test_center_manual : (nextOf (exec .center (menu .manual []))).map (·.pos.list) = some .manC := by decide
/-- 43_modecontroller.md R178. -/
theorem test_right_topMenu : (nextOf (exec .right (menu .topMenu []))).map (·.fsm) = some .immediate := by decide
theorem test_right_manual : (nextOf (exec .right (menu .manual []))).map (·.pos.list) = some .manR := by decide
/-- 43_modecontroller.md R168. -/
theorem test_back_topMenu : (nextOf (exec .back (menu .topMenu []))).map (fun t => (t.fsm, t.owed)) = some (.exit, true) := by
  decide
theorem test_back_manual : (nextOf (exec .back (menu .manual []))).map (fun t => (t.fsm, t.trace))
    = some (.topMenu, [.event .back]) := by decide

/-- What the host asks: the placed word is the first instruction run. -/
theorem test_placed_word_runs : (nextOf (step (State.reset.withFetchWord 16 0x0004))).map (·.trace)
    = some [.write .ser true] := by decide
theorem test_placed_event_runs : (nextOf (step (State.reset.withFetchWord 8 1))).map (·.fsm) = some .auto := by decide

/-! ### Witnesses: each statement's hypotheses are met -/

/-- A configuration with a short script of every generator and with RESET actions. -/
def shortCfg : Config := { Config.reference with script := [0x0004, 0x1001, 0x3000], resetActions := [.clearRegister, .latch] }

theorem test_witness_DecodeEncodeAgree : (Instr.sweep 4095).wellFormed = true ∧ (Instr.randomRun 0).wellFormed = true ∧
    Instr.back.wellFormed = true := by decide
theorem test_witness_EncodeDecodeAgree : decode (.op 0x2FFF) = .ok (.alternate 4095) ∧ decode (.ev 3) = .ok .back := by
  decide
theorem test_witness_GeneratorOperand : 0 < State.reset.cfg.sweepHalf ∧ 0 < State.reset.cfg.altSteps ∧
    (0x1000 : OpWord).toNat / 4096 = 1 ∧ (0x3FFF : OpWord).toNat / 4096 = 3 ∧
    decode (.op 0x1000) = .ok (.sweep 0) ∧ decode (.op 0x2FFF) = .ok (.alternate 4095) ∧
    decode (.op 0x3001) = .ok (.randomRun 1) := by decide
theorem test_witness_ReservedWordsRefused : wordOk 0x0006 = false ∧ wordOk 0x0008 = false ∧ wordOk 0x0800 = false ∧
    wordOk 0x4000 = false ∧ wordOk 0xFFFF = false ∧ (0x0006 : OpWord) ∈ [0x0004, (0x0006 : OpWord)] := by decide
theorem test_witness_StepRuns_word : (at0 0x1064).next = .word 0x1064 ∧ decode (.op 0x1064) = .ok (.sweep 100) ∧
    (at0 0x1064).rstIn = [] ∧ ({ at0 0x1064 with rstIn := [false] }).next = .word 0x1064 := by decide
theorem test_witness_StepRuns_event : (menu .manual [3]).evReady = true ∧ (menu .manual [3]).evIn = [3] ∧
    decode (.ev 3) = .ok .back ∧ (menu .manual [3]).rstIn = [] ∧
    ({ menu .manual [3] with rstIn := [false, true] }).evReady = true := by decide
theorem test_witness_WaitsForEver : (menu .topMenu []).rstIn = [] ∧ (menu .topMenu []).evReady = true ∧
    (menu .topMenu []).evIn = [] := by decide
theorem test_witness_ResetWins : ({ at0 0x1064 with rstIn := [true], timer := 3 }).rstIn = true :: [] := by decide
theorem test_witness_ResetValues : shortCfg.resetActions ≠ [] ∧ Config.reference.resetActions = [] := by decide

/-- Boot just before the last init. -/
def lastInit (c : Config) : State := { State.resetWith c with init := initBefore .srclr }

theorem test_witness_BootInit : State.reset.rstIn = [] ∧ State.reset.fsm = .boot ∧ State.reset.nextInit = some .ser ∧
    State.reset.cfg.wellFormed = true ∧ State.reset.cfg.initOk.get .ser = true ∧
    State.reset.init.set .ser true ≠ allInit := by decide
theorem test_witness_BootInit_last : (lastInit Config.reference).nextInit = some .srclr ∧
    (lastInit Config.reference).init.set .srclr true = allInit ∧ (lastInit Config.reference).pos.list = .none ∧
    (lastInit shortCfg).nextInit = some .srclr ∧ (lastInit shortCfg).pos.list ≠ .none ∧
    (lastInit Config.reference).fsm = .boot ∧ (lastInit shortCfg).cfg.wellFormed = true ∧
    (lastInit Config.reference).rstIn = [] ∧ (lastInit Config.reference).cfg.initOk.get .srclr = true := by decide

/-- A configuration in which the init of `SRCLR`, the last, fails. -/
def failCfg : Config := { Config.reference with initOk := initBefore .srclr }

theorem test_witness_FailedInitPanics : (lastInit failCfg).rstIn = [] ∧ (lastInit failCfg).fsm = .boot ∧
    (lastInit failCfg).nextInit = some .srclr ∧ (lastInit failCfg).cfg.wellFormed = true ∧
    (lastInit failCfg).cfg.initOk.get .srclr = false := by decide
theorem test_witness_BootMakesFiveInits : Config.reference.wellFormed = true ∧ Config.reference.initOk = allInit ∧
    Config.reference.resetActions = [] ∧ shortCfg.wellFormed = true ∧ shortCfg.initOk = allInit ∧
    shortCfg.resetActions = .clearRegister :: [.latch] := by decide
theorem test_witness_FirstFailingRole : failCfg.wellFormed = true ∧
    Role.all.find? (fun q => !failCfg.initOk.get q) = some .srclr ∧
    Role.all.find? (fun q => !(initBefore .ser).get q) = some .ser := by decide
theorem test_witness_TerminalStates : (menu .exit []).rstIn = [] ∧ (menu .exit []).owed = false ∧
    (menu .exit []).fsm = .exit ∧ (menu .panic []).fsm = .panic ∧
    ({ menu .panic [] with owed := true, panicRole := some .oe }).panicRole = some .oe ∧
    ({ menu .exit [] with owed := true }).rstIn = [] := by decide
theorem test_witness_TerminalStates_step : ({ menu .exit [] with owed := true }).noReset ∧
    (nextOf (step { menu .exit [] with owed := true })).isSome = true := by
  constructor
  · show ({ menu .exit [] with owed := true }).rstIn.head? ≠ some true
    decide
  · decide
theorem test_witness_events_ready : (menu .topMenu []).evReady = true ∧ (menu .topMenu []).fsm = .topMenu ∧
    (menu .manual []).evReady = true ∧ (menu .manual []).fsm = .manual ∧
    (menu .immediate []).evReady = true ∧ (menu .immediate []).fsm = .immediate := by decide
theorem test_witness_CenterSelects : (menu .topMenu []).cfg.script = 0x0000 :: (menu .topMenu []).cfg.script.drop 1 ∧
    wordEntry (menu .topMenu []).cfg 0x0000 = some (.body, .unknown) ∧
    ({ menu .topMenu [] with cfg := { Config.reference with script := [] } }).cfg.script = [] := by decide
theorem test_witness_ExitSaysFarewell : (menu .topMenu [3, 0]).rstIn = [] ∧ (menu .topMenu [3, 0]).fsm = .topMenu ∧
    (menu .topMenu [3, 0]).evReady = true ∧ (menu .topMenu [3, 0]).evIn = 3 :: [0] := by decide
theorem test_witness_NothingPolled : (at0 0x0005).evReady = false ∧
    (nextOf (step { at0 0x0005 with evIn := [2] })).isSome = true := by decide
theorem test_witness_NothingPolled_noReset : (at0 0x0005).noReset := by
  show (at0 0x0005).rstIn.head? ≠ some true
  decide
theorem test_witness_ManualSelections : (menu .manual [0, 3]).rstIn = [] ∧ (menu .manual [0, 3]).pos = Pos.rest ∧
    (menu .manual [0, 3]).timer = 0 ∧ (menu .manual [0, 3]).tCur = .unknown ∧ (menu .manual [0, 3]).init = allInit ∧
    (menu .manual [0, 3]).fsm = .manual ∧ (menu .manual [0, 3]).evIn = 0 :: [3] ∧ (menu .manual [1]).evIn = 1 :: [] ∧
    (menu .manual [2]).evIn = 2 :: [] ∧ (menu .manual [3]).evIn = 3 :: [] := by decide
theorem test_witness_ImmediateSelections : (menu .immediate [0, 3]).rstIn = [] ∧
    (menu .immediate [0, 3]).pos = Pos.rest ∧ (menu .immediate [0, 3]).timer = 0 ∧
    (menu .immediate [0, 3]).tCur = .unknown ∧ (menu .immediate [0, 3]).init = allInit ∧
    (menu .immediate [0, 3]).fsm = .immediate ∧ (menu .immediate [0, 3]).evIn = 0 :: [3] ∧
    (menu .immediate [1]).evIn = 1 :: [] ∧ (menu .immediate [2]).evIn = 2 :: [] ∧
    (menu .immediate [3]).evIn = 3 :: [] := by decide
theorem test_witness_ShiftBitMicroEvents : ∀ u ∈ [0, 1, 2, 3, 4, 5, 6, 7], (atU 0x0004 u).timer = 0 ∧
    0 < (atU 0x0004 u).cfg.tUnit ∧ (atU 0x0004 u).pos.u = u := by decide
theorem test_witness_PulseMicroEvents : ∀ u ∈ [0, 1, 2, 3], (atU 0x0005 u).timer = 0 ∧
    0 < (atU 0x0005 u).cfg.tHold ∧ (atU 0x0005 u).pos.u = u := by decide
theorem test_witness_StaticWriteActions : (at0 0x0001).timer = 0 ∧ (at0 0x0001).pos.u = 0 := by decide
theorem test_witness_WaitCountsDown : (atU 0x0005 1).rstIn = [] ∧ (atU 0x0005 1).current = some Action.latch.instr ∧
    (atU 0x0005 1).timer = 0 ∧ (actionMicros (atU 0x0005 1).cfg .latch)[(atU 0x0005 1).pos.u]? = some (.wait 1) ∧
    0 < 1 := by decide
theorem test_witness_ClearRegisterRuns : (at0 0x0000).AtStart .clearRegister :=
  ⟨rfl, rfl, _, _, rfl, rfl, rfl, rfl, rfl⟩
theorem test_witness_ShiftRuns : (at0 0x0004).AtStart (if true then .shiftOne else .shiftZero) ∧
    (at0 0x0003).AtStart (if false then .shiftOne else .shiftZero) :=
  ⟨⟨rfl, rfl, _, _, rfl, rfl, rfl, rfl, rfl⟩, ⟨rfl, rfl, _, _, rfl, rfl, rfl, rfl, rfl⟩⟩
/-- The same start with every level of SRCLK and SRCLR the clauses name. -/
theorem test_witness_ShiftRuns_levels : ∀ a ∈ [OrUnknown.unknown, .is true, .is false],
    ∀ b ∈ [OrUnknown.unknown, .is true, .is false],
    ({ at0 0x0004 with pins := ⟨.unknown, .unknown, .unknown, a, b⟩ }).AtStart .shiftOne :=
  fun _ _ _ _ => ⟨rfl, rfl, _, _, rfl, rfl, rfl, rfl, rfl⟩
theorem test_witness_LatchRuns : (at0 0x0005).AtStart .latch ∧ (at0 0x0005).pins.rclk = .unknown ∧
    ∀ a, ({ at0 0x0005 with pins := ⟨.unknown, .unknown, .is a, .unknown, .unknown⟩ }).AtStart .latch :=
  ⟨⟨rfl, rfl, _, _, rfl, rfl, rfl, rfl, rfl⟩, rfl, fun _ => ⟨rfl, rfl, _, _, rfl, rfl, rfl, rfl, rfl⟩⟩
theorem test_witness_ActionFrame : ∃ t, exec Action.latch.instr (at0 0x0005) = .next t := ⟨_, rfl⟩
theorem test_witness_GeneratorMicroEvents : ∀ p ∈ [Sph.act, .latch, .delay], (inStepAt 0x3064 0 p 0).timer = 0 ∧
    (inStepAt 0x3064 0 p 0).pos.sph = p ∧ (inStepAt 0x3064 0 p 0).pos.u = 0 ∧
    (inStepAt 0x3064 0 p 0).tCur = .is 100 ∧ (inStepAt 0x3064 0 p 0).pos.gph = .body ∧
    (inStepAt 0x3064 0 p 0).pos.seg ≠ .off := by decide
/-- The other phases and segments of RandomRun. -/
def inPhase (g : Gph) (sg : Seg) (k : Nat) : State :=
  { at0 0x3064 with
    pos := { (at0 0x3064).pos with gph := g, seg := sg, k := k }
    countOn := .is 2, countOff := .is 1 }
theorem test_witness_GeneratorMicroEvents_phases : (inPhase .body .off 0).pos.gph = .body ∧
    (inPhase .body .off 0).pos.seg = .off ∧ (inPhase .flush .on1 0).pos.gph = .flush ∧
    (inPhase .flush .on1 0).pos.sph = .act ∧ (inPhase .flush .on1 0).timer = 0 := by decide
theorem test_witness_RandomRunDraws : (at0 0x3064).timer = 0 ∧ (at0 0x3064).pos.gph = .drawOn ∧
    (at0 0x3064).rndIn = [] ∧ ({ at0 0x3064 with rndIn := [5] }).rndIn = 5 :: [] ∧
    ({ inPhase .drawOff .on1 0 with rndIn := [5] }).pos.gph = .drawOff ∧
    (inPhase .drawOff .on1 0).pos.gph = .drawOff ∧ (inPhase .drawOff .on1 0).timer = 0 ∧
    (inPhase .drawOff .on1 0).rndIn = [] := by decide
theorem test_witness_StepOfEachGenerator : (inStepAt 0x1064 0 .act 0).current = some (.sweep 100) ∧
    (inStepAt 0x1064 14 .act 0).pos.k + 1 < 2 * (inStepAt 0x1064 14 .act 0).cfg.sweepHalf ∧
    (inStepAt 0x2064 14 .act 0).current = some (.alternate 100) ∧
    (inStepAt 0x2064 14 .act 0).pos.k + 1 < (inStepAt 0x2064 14 .act 0).cfg.altSteps ∧
    (inStepAt 0x2064 14 .act 0).rstIn = [] ∧ (inStepAt 0x2064 14 .act 0).timer = 0 ∧
    (inStepAt 0x2064 14 .act 0).tCur = .is 100 := by decide
theorem test_witness_StepOfEachGenerator_random : (inPhase .body .off 0).current = some (.randomRun 100) ∧
    (inPhase .body .off 0).countOff = .is 1 ∧ (inPhase .body .off 0).pos.k < 1 ∧
    (inPhase .body .on2 1).countOn = .is 2 ∧ (inPhase .body .on2 1).pos.k < 2 ∧
    (inPhase .body .on2 1).tCur = .is 100 ∧ (inPhase .flush .on1 6).pos.k + 1 < (inPhase .flush .on1 6).cfg.rrFlush ∧
    (inPhase .flush .on1 6).current = some (.randomRun 100) := by decide
theorem test_witness_SweepRuns : (at0 0x1064).AtStart (.sweep 100) := ⟨rfl, rfl, _, _, rfl, rfl, rfl, rfl, rfl⟩
/-- Any delay, SRCLR high, stages of the configured width. -/
theorem test_witness_SweepEndsAllZero :
    ({ at0 0x1FFF with pins := ⟨.unknown, .unknown, .unknown, .unknown, .is true⟩ }).AtStart (.sweep 4095) ∧
    (at0 0x1FFF).cfg.regWidth ≤ (at0 0x1FFF).cfg.sweepHalf ∧
    (at0 0x1FFF).ext.sh.length = (at0 0x1FFF).cfg.regWidth ∧ (at0 0x1FFF).ext.st.length = (at0 0x1FFF).cfg.regWidth :=
  ⟨⟨rfl, rfl, _, _, rfl, rfl, rfl, rfl, rfl⟩, by decide, rfl, rfl⟩
/-- The reference configuration, in Auto at the script's second word, `Sweep@100`, with SRCLR high. -/
def atScriptSweep : State :=
  { menu .auto [] with
    pos := { Pos.rest with list := .script, widx := 1 }
    tCur := .is 100
    pins := ⟨.unknown, .unknown, .unknown, .unknown, .is true⟩ }
theorem test_witness_SweepEndsAllZero_reference : atScriptSweep.AtStart (.sweep 100) ∧
    atScriptSweep.cfg = Config.reference ∧ atScriptSweep.pins.srclr = .is true :=
  ⟨⟨rfl, rfl, _, _, rfl, rfl, rfl, rfl, rfl⟩, rfl, rfl⟩
theorem test_witness_AlternateRuns : (at0 0x2FFF).AtStart (.alternate 4095) := ⟨rfl, rfl, _, _, rfl, rfl, rfl, rfl, rfl⟩
theorem test_witness_RandomRunRuns : ({ at0 0x3000 with rndIn := [1, 0] }).AtStart (.randomRun 0) ∧
    ({ at0 0x3000 with rndIn := [1, 0] }).rndIn = 1 :: 0 :: [] := ⟨⟨rfl, rfl, _, _, rfl, rfl, rfl, rfl, rfl⟩, rfl⟩
theorem test_witness_RandomRunSize : ({ at0 0x3FFF with rndIn := [1, 0, 7] }).AtStart (.randomRun 4095) ∧
    (at0 0x3FFF).cfg.rrMod = 4 ∧ (at0 0x3FFF).cfg.rrBase = 1 ∧ (at0 0x3FFF).cfg.rrCycles = 3 ∧
    (at0 0x3FFF).cfg.rrFlush = 8 ∧ (at0 0x3FFF).cfg.tUnit = 1 ∧ (at0 0x3FFF).cfg.tHold = 1 ∧
    ({ at0 0x3FFF with rndIn := [1, 0, 7] }).rndIn = 1 :: 0 :: [7] ∧ 8 * 2 + 4 * 1 + 20 = 40 :=
  ⟨⟨rfl, rfl, _, _, rfl, rfl, rfl, rfl, rfl⟩, rfl, rfl, rfl, rfl, rfl, rfl, rfl, rfl⟩
theorem test_witness_GeneratorFrame : (∃ u, exec (.sweep 100) (at0 0x1064) = .next u) ∧
    (∃ u, exec (.alternate 100) (at0 0x2064) = .next u) ∧ (∃ u, exec (.randomRun 100) (at0 0x3064) = .next u) :=
  ⟨⟨_, rfl⟩, ⟨_, rfl⟩, ⟨_, rfl⟩⟩
/-- A next state of Sweep that RandomRun does not give, for the clause about the two other generators. -/
theorem test_witness_GeneratorFrame_other :
    (nextOf (exec (.sweep 100) (inStepAt 0x1064 8 .act 0))).map (·.trace) ≠
    (nextOf (exec (.randomRun 100) (inStepAt 0x1064 8 .act 0))).map (·.trace) := by decide
theorem test_witness_WordEnd_next : (listWords Config.reference .script)[1]? = some 0x1064 ∧
    wordEntry Config.reference 0x1064 = some (.body, .is 100) ∧ (listWords Config.reference .immL)[1]? = some 0x0005 := by
  decide
theorem test_witness_WordEnd_last : (listWords (at0 0x0005).cfg (at0 0x0005).pos.list).length ≤ (at0 0x0005).pos.widx + 1 ∧
    (at0 0x0005).fsm = .auto ∧
    (listWords Config.reference .manL).length ≤ 0 + 1 := by decide
/-- At TopMenu's TakeEvent with Center on the port, a short script and its draws. -/
def autoStart : State := { menu .topMenu [1, 3] with cfg := shortCfg, rndIn := [4, 9] }
theorem test_witness_AutoRuns : autoStart.cfg.script.map decodeWord = [Instr.shiftOne, .sweep 1, .randomRun 0].map .ok ∧
    drawsNeeded [.shiftOne, .sweep 1, .randomRun 0] ≤ autoStart.rndIn.length ∧ autoStart.evIn = 1 :: [3] ∧
    autoStart.fsm = .topMenu ∧ autoStart.init = allInit ∧ autoStart.rstIn = [] ∧ autoStart.pos = Pos.rest ∧
    autoStart.timer = 0 ∧ autoStart.tCur = .unknown := by decide

/-- The invariant holds at a TakeEvent. -/
theorem menu_inv (evs : List EvCode) : (menu .topMenu evs).Inv where
  modulus := .inr (show Config.reference.rrMod ≠ 0 by decide)
  booting := by intro r h; cases h
  bootList := by intro h; cases h
  initialised := fun _ _ => rfl
  panicked := by intro h; cases h
  noRole := fun _ => rfl
  lists := rfl
  idle := fun _ => ⟨rfl, rfl, rfl⟩
  running := fun h => absurd rfl h
  widths := ⟨rfl, rfl⟩
  last := by intro h; cases h
/-- The invariant holds in Exit, its farewell still to come. -/
theorem exit_inv : ({ menu .exit [] with owed := true }).Inv where
  modulus := .inr (by decide)
  booting := by intro r h; cases h
  bootList := by intro h; cases h
  initialised := fun _ _ => rfl
  panicked := by intro h; cases h
  noRole := fun _ => rfl
  lists := rfl
  idle := fun _ => ⟨rfl, rfl, rfl⟩
  running := fun h => absurd rfl h
  widths := ⟨rfl, rfl⟩
  last := fun _ => .inl rfl
/-- The invariant holds at the first Draw of a RandomRun. -/
theorem draw_inv : (at0 0x3064).Inv where
  modulus := .inr (by decide)
  booting := by intro r h; cases h
  bootList := by intro h; cases h
  initialised := fun _ _ => rfl
  panicked := by intro h; cases h
  noRole := fun _ => rfl
  lists := rfl
  idle := by intro h; cases h
  running := by
    intro _
    refine ⟨0x3064, rfl, ?_⟩
    intro i h
    cases h
    exact ⟨rfl, rfl, rfl⟩
  widths := ⟨rfl, rfl⟩
  last := by intro h; cases h
theorem test_witness_InvariantKept : (menu .topMenu [0]).Inv ∧ ∃ t, step (menu .topMenu [0]) = .next t :=
  ⟨menu_inv _, _, rfl⟩
/-- A RandomRun in its body satisfies the third clause's hypotheses. -/
theorem test_witness_InvariantMeaning_random : (inPhase .body .off 0).cfg.rrMod = 4 ∧
    (inPhase .body .off 0).cfg.rrBase = 1 ∧ (inPhase .body .off 0).current = some (.randomRun 100) ∧
    (inPhase .body .off 0).pos.gph = .body ∧ (inPhase .body .off 0).fsm = .auto := by decide
theorem test_witness_InvariantMeaning_body : (inPhase .body .off 0).Inv where
  modulus := .inr (by decide)
  booting := by intro r h; cases h
  bootList := by intro h; cases h
  initialised := fun _ _ => rfl
  panicked := by intro h; cases h
  noRole := fun _ => rfl
  lists := rfl
  idle := by intro h; cases h
  running := by
    intro _
    refine ⟨0x3064, rfl, ?_⟩
    intro i h
    cases h
    exact ⟨rfl, ⟨by decide, by decide⟩, ⟨by decide, by decide⟩, by decide, by decide, _, rfl, rfl⟩
  widths := ⟨rfl, rfl⟩
  last := by intro h; cases h
theorem test_witness_steps : (at0 0x0000).rstIn.head? ≠ some true ∧ (nextOf (step (at0 0x0000))).isSome = true ∧
    (menu .topMenu []).rstIn.head? ≠ some true ∧ (nextOf (step (menu .topMenu []))).isSome = true := by decide
theorem test_witness_OneMicroEvent_tick : ({ atU 0x0005 1 with timer := 1 }).timer ≠ 0 ∧
    (nextOf (step { atU 0x0005 1 with timer := 1 })).map (·.timer) = some 0 := by decide
theorem test_witness_OpenLoop : ({ at0 0x0004 with pins := ⟨.is true, .is true, .is true, .is true, .is true⟩ }).blind
    = (at0 0x0004).blind := by decide
theorem test_witness_ElapsedIsSumOfWaits : (at0 0x0005).elapsed = waitSum (at0 0x0005).trace ∧
    (nextOf (step (at0 0x0005))).isSome = true := by decide
theorem test_witness_OutputEnable : State.reset.pins.oe = .unknown ∧
    Action.enableOutputInverted ∉ State.reset.cfg.resetActions ∧
    Action.enableOutputInverted.word ∉ State.reset.cfg.script ∧ (nextOf (step State.reset)).isSome = true := by decide
theorem test_witness_ClearLine : (nextOf (step (at0 0x0000))).map (·.pins.srclr) = some (.is false) ∧
    (at0 0x0000).pins.srclr = .unknown ∧
    (nextOf (step (at0 0x0001))).map (·.pins.srclr) = some (.is true) := by decide
theorem test_witness_Draws : (at0 0x3064).Inv ∧ (at0 0x3064).rndReq = true ∧ (at0 0x3064).rstIn = [] ∧
    (nextOf (step (at0 0x3064))).isSome = true ∧ (menu .topMenu []).rndReq = false := ⟨draw_inv, rfl, rfl, rfl, rfl⟩
theorem test_witness_Panic : (State.resetWith failCfg).fsm ≠ .panic ∧
    (nextOf (step (lastInit failCfg))).map (·.fsm) = some .panic := by decide
theorem test_witness_Transitions : (menu .topMenu [3]).Inv ∧
    (nextOf (step (menu .topMenu [3]))).map (·.fsm) = some .exit := ⟨menu_inv _, by decide⟩
/-- Every level of the two clocks and of the clear line that the clauses name. -/
theorem test_witness_ExternalRegister : ∀ a ∈ [OrUnknown.unknown, .is true, .is false], ∀ b ∈ [OrUnknown.unknown, .is true, .is false],
    (⟨.unknown, .unknown, a, a, b⟩ : PerRole (OrUnknown Level)).srclk = a ∧
    (⟨.unknown, .unknown, a, a, b⟩ : PerRole (OrUnknown Level)).rclk = a ∧
    (⟨.unknown, .unknown, a, a, b⟩ : PerRole (OrUnknown Level)).srclr = b := fun _ _ _ _ => ⟨rfl, rfl, rfl⟩
theorem test_witness_Flags_initReq : State.reset.initReq = some .ser ∧ (lastInit Config.reference).initReq = some .srclr ∧
    (menu .topMenu []).initReq = none ∧ State.reset.fsmState = 5 := by decide
theorem test_witness_Flags_panic : (menu .panic []).fsm = .panic := by decide

end Sys2Proof.Tests
end

section
/-! The terminal states Exit and Panic (43_modecontroller.md R175, 60_exceptions.md R190): what comes next in them, their
last micro-event, and the stop after it. -/

namespace Sys2Proof.Machine

/-! ### The last micro-event -/

theorem emitLast_exit {s : State} (hf : s.fsm = .exit) : s.emitLast = { s.emit .farewell with owed := false } := by
  simp only [State.emitLast, hf]

theorem emitLast_panic {s : State} {r : Role} (hf : s.fsm = .panic) (hr : s.panicRole = some r) :
    s.emitLast = { s.emit (.panic r) with owed := false } := by
  simp only [State.emitLast, hf, hr]

/-- The last micro-event writes the trace and `owed`, in every state. -/
theorem emitLast_frame (s : State) : ∃ tr, s.emitLast = { s with trace := tr, owed := false } := by
  unfold State.emitLast
  split <;> exact ⟨_, rfl⟩

/-! ### The step in a terminal state -/

theorem next_of_terminal {s : State} (hf : s.fsm = .exit ∨ s.fsm = .panic) :
    s.next = if s.owed then .last else .stopped := by
  rcases hf with hf | hf <;> simp only [State.next, hf]

theorem step_terminal_owed {s : State} (hf : s.fsm = .exit ∨ s.fsm = .panic) (hr : s.rstIn = [])
    (ho : s.owed = true) : step s = .next s.emitLast := by
  have hn : s.next = .last := by rw [next_of_terminal hf, if_pos ho]
  rw [step_of_rstIn_nil hr, seqStep, hn]

theorem step_terminal_stopped {s : State} (hf : s.fsm = .exit ∨ s.fsm = .panic) (hr : s.rstIn = [])
    (ho : s.owed = false) : step s = .fault (if s.fsm = .panic then .panicked else .exited) := by
  have hn : s.next = .stopped := by rw [next_of_terminal hf, ho]; rfl
  simp only [step_of_rstIn_nil hr, seqStep, hn, hr, if_true]

/-- A step of the sequencer in a terminal state that answers a next state emits the last micro-event or waits for the
reset. -/
theorem SeqEffect.of_terminal {s t : State} (e : SeqEffect s t) (hf : s.fsm = .exit ∨ s.fsm = .panic) :
    t = s.emitLast ∨ t = s := by
  have hn : s.next = .last ∨ s.next = .stopped := by
    rw [next_of_terminal hf]
    cases s.owed
    · exact .inr rfl
    · exact .inl rfl
  cases e with
  | last _ e => exact .inl e
  | stopped _ _ e => exact .inr e
  | boot _ h | word _ _ h | event _ _ h | blocked h | listOver h => simp [h] at hn

/-- No step but reset leaves a terminal state: the trace and `owed`, and the level of `rst` consumed, are all it can
write. -/
theorem step_terminal_frame {s t : State} (hf : s.fsm = .exit ∨ s.fsm = .panic) (hn : s.noReset)
    (h : step s = .next t) : ∃ rs tr o, t = { s with rstIn := rs, trace := tr, owed := o } := by
  obtain ⟨rs, e⟩ := step_noReset hn h
  rcases e.of_terminal hf with rfl | rfl
  · obtain ⟨tr, htr⟩ := emitLast_frame { s with rstIn := rs }
    exact ⟨rs, tr, false, htr⟩
  · exact ⟨rs, s.trace, s.owed, rfl⟩

/-- Settles O17, from the one step a terminal state with its micro-event owed takes, the stop when none is owed, and the
frame of every step there that is not reset. -/
theorem terminalStatesStop : Obligations.TerminalStatesStop := by
  refine ⟨fun s hr ho => ⟨fun hf => ?_, fun hf => ?_⟩, fun s r hr ho => ⟨fun hf => ?_, fun hf hp => ?_⟩,
    fun s t hf hn h => ?_⟩
  · simp [step_terminal_stopped (.inl hf) hr ho, hf]
  · simp [step_terminal_stopped (.inr hf) hr ho, hf]
  · rw [step_terminal_owed (.inl hf) hr ho, emitLast_exit hf]; rfl
  · rw [step_terminal_owed (.inr hf) hr ho, emitLast_panic hf hp]; rfl
  · obtain ⟨rs, tr, o, rfl⟩ := step_terminal_frame hf hn h
    exact ⟨rfl, rfl, rfl, rfl⟩

end Sys2Proof.Machine
end

section
/-! The flags and ports as functions of the state (10_state.md R29), what comes next in boot and in a list, and the
state after reset (R34). -/

namespace Sys2Proof.Machine

/-! ### What comes next -/

theorem fetchWord_eq_word {s : State} {w : OpWord} :
    s.fetchWord = .word w ↔ (listWords s.cfg s.pos.list)[s.pos.widx]? = some w := by
  unfold State.fetchWord
  split <;> simp [*]

theorem fetchWord_ne_boot (s : State) (r : Role) : s.fetchWord ≠ .boot r := by
  unfold State.fetchWord
  split <;> simp

/-- An init comes next in Boot only, while a role is left (70_reset_and_hazards.md R211). -/
theorem next_boot_iff {s : State} {r : Role} : s.next = .boot r ↔ s.fsm = .boot ∧ s.nextInit = some r := by
  have hw := fetchWord_ne_boot s r
  unfold State.next
  split
  · next hf => cases hn : s.nextInit <;> simp [hf, hw]
  · next hf => simp [hf, hw]
  · next hf => split <;> simp [hf, hw]
  · next hf => split <;> simp [hf, hw]
  · next hf => split <;> simp [hf, hw]
  · next hf => split <;> simp [hf]
  · next hf => split <;> simp [hf]

theorem current_eq_some_iff {s : State} {i : Instr} :
    s.current = some i ↔ ∃ w, s.next = .word w ∧ decodeWord w = .ok i := by
  unfold State.current
  cases s.next with
  | word w => cases hd : decodeWord w <;> simp [hd]
  | boot _ | takeEvent | listOver | last | stopped => simp

/-- No init is left exactly when all five are done (70_reset_and_hazards.md R211). -/
theorem nextInit_eq_none_iff {s : State} : s.nextInit = none ↔ s.init = allInit := by
  have hall : s.init = allInit ↔ ∀ r, s.init.get r = true :=
    ⟨fun h r => by rw [h]; cases r <;> rfl, fun h => PerRole.ext_get fun r => by rw [h r]; cases r <;> rfl⟩
  have hmem (r : Role) : r ∈ Role.all := by cases r <;> decide
  simp [hall, State.nextInit, hmem]

/-- The role after the initialised ones is next. -/
theorem nextInit_of_initBefore {s : State} {r : Role} (h : s.init = initBefore r) : s.nextInit = some r := by
  unfold State.nextInit
  rw [h]
  cases r <;> rfl

/-! ### The flags -/

theorem evReady_iff (s : State) :
    s.evReady = true ↔ (s.fsm = .topMenu ∨ s.fsm = .manual ∨ s.fsm = .immediate) ∧ s.pos.list = .none := by
  cases hf : s.fsm <;> simp [State.evReady, Fsm.takesEvents, hf]

theorem busy_iff (s : State) : s.busy = true ↔ s.fsm = .boot ∨ s.pos.list ≠ .none := by simp [State.busy]

/-- A Draw is next exactly in the two draw phases of a RandomRun (10_state.md R29). -/
theorem rndReq_iff (s : State) :
    s.rndReq = true ↔ (∃ t, s.current = some (.randomRun t)) ∧ (s.pos.gph = .drawOn ∨ s.pos.gph = .drawOff) := by
  unfold State.rndReq State.current
  cases s.next with
  | word w =>
    cases hd : decodeWord w with
    | error e => simp [hd]
    | ok i => cases i <;> cases s.pos.gph <;> simp [hd]
  | boot _ | takeEvent | listOver | last | stopped => simp

theorem initReq_iff (s : State) (r : Role) : s.initReq = some r ↔ s.fsm = .boot ∧ s.nextInit = some r := by
  rw [← next_boot_iff]
  unfold State.initReq
  cases s.next <;> simp

theorem Fsm.code_ne_seven (f : Fsm) : f.code ≠ 7 := by cases f <;> decide

/-- Settles O60, flag by flag. -/
theorem flagsFollowState : Obligations.FlagsFollowState := by
  intro s
  refine ⟨evReady_iff s, rndReq_iff s, busy_iff s, by simp [State.farewell], by simp [State.panic], fun hp => ?_, ?_,
    Fsm.code_ne_seven _, initReq_iff s⟩
  · simp [State.panicCode, State.panic, hp]
  · unfold State.fsmState
    cases s.fsm <;> rfl

/-! ### After reset -/

/-- Settles O9: the fields are those of `resetWith`; its position is the one in which RESET_ACTIONS decides. -/
theorem resetValues : Obligations.ResetValues := by
  intro c
  refine ⟨fun r => by cases r <;> rfl, fun r => by cases r <;> rfl, rfl, rfl, rfl, rfl, rfl, fun h => ?_, fun h => ?_, rfl,
    rfl, rfl, rfl, rfl, rfl, rfl, rfl, rfl⟩
  · simp [State.resetWith, Pos.rest, h]
  · simp [State.resetWith, Pos.rest, h]

end Sys2Proof.Machine
end

section
/-! The invariant of the reachable states (10_state.md R35) outside the words: what it comes to once boot is over, what it
gives where a word comes next, and that the start and the end of a list keep it. -/

namespace Sys2Proof.Machine

/-! ### The conditions that boot leaves behind -/

/-- What the invariant asks of a state with all inits done, apart from the list, the position and the timer. -/
structure State.Settled (s : State) : Prop where
  modulus : s.cfg.rrMod ≠ 0
  inits : s.init = allInit
  noRole : s.panicRole = none
  notOwed : s.owed = false
  widths : s.ext.sh.length = s.cfg.regWidth ∧ s.ext.st.length = s.cfg.regWidth

/-- A list may run in Boot, Manual, Immediate and Auto (43_modecontroller.md R161). -/
theorem Fsm.of_mayRun {f : Fsm} {l : ListName} (h : f.mayRun l = true) (hl : l ≠ .none) :
    (f = .boot ∧ l = .reset) ∨ f = .manual ∨ f = .immediate ∨ f = .auto := by
  revert h hl
  cases f <;> cases l <;> decide

theorem Fsm.eq_script_of_mayRun_auto {l : ListName} (h : Fsm.auto.mayRun l = true) : l = .script := by
  cases l <;> simp [Fsm.mayRun] at h ⊢

/-- The invariant between operations, in a state that is neither Boot nor Panic. -/
theorem State.Settled.inv_idle {s : State} (h : s.Settled) (hf : s.fsm = .topMenu ∨ s.fsm = .manual ∨ s.fsm = .immediate)
    (hp : s.pos = Pos.rest) (ht : s.timer = 0) (hc : s.tCur = .unknown) : s.Inv where
  modulus := .inr h.modulus
  booting := fun r hb => by simp [hb] at hf
  bootList := fun hb => by simp [hb] at hf
  initialised := fun _ _ => h.inits
  panicked := fun hb => by simp [hb] at hf
  noRole := fun _ => h.noRole
  lists := by rcases hf with hf | hf | hf <;> rw [hf, hp] <;> rfl
  idle := fun _ => ⟨hp, ht, hc⟩
  running := fun hl => absurd (by rw [hp]; rfl) hl
  widths := h.widths
  last := fun ho => by simp [h.notOwed] at ho

/-- The invariant while a list runs. -/
theorem State.Settled.inv_running {s : State} (h : s.Settled) (hf : s.fsm.mayRun s.pos.list = true)
    (hl : s.pos.list ≠ .none)
    (hr : ∃ w, (listWords s.cfg s.pos.list)[s.pos.widx]? = some w ∧ ∀ i, decodeWord w = .ok i → s.inWord i) : s.Inv where
  modulus := .inr h.modulus
  booting := fun r _ hn => by simp [nextInit_eq_none_iff.mpr h.inits] at hn
  bootList := fun hb _ => ⟨by simpa [hb] using Fsm.of_mayRun hf hl, h.modulus⟩
  initialised := fun _ _ => h.inits
  panicked := fun hb => by simpa [hb] using Fsm.of_mayRun hf hl
  noRole := fun _ => h.noRole
  lists := hf
  idle := fun hn => absurd hn hl
  running := fun _ => hr
  widths := h.widths
  last := fun ho => by simp [h.notOwed] at ho

/-- At a TakeEvent the inits are done and the block is at rest. -/
theorem State.Inv.settled_of_evReady {s : State} (hi : s.Inv) (h : s.evReady = true) :
    s.Settled ∧ s.pos = Pos.rest ∧ s.timer = 0 ∧ s.tCur = .unknown := by
  obtain ⟨hf, hl⟩ := (evReady_iff s).mp h
  have hb : s.fsm ≠ .boot := by rcases hf with hf | hf | hf <;> simp [hf]
  have hp : s.fsm ≠ .panic := by rcases hf with hf | hf | hf <;> simp [hf]
  have he : s.fsm ≠ .exit := by rcases hf with hf | hf | hf <;> simp [hf]
  exact ⟨⟨hi.modulus.resolve_left hb, hi.initialised hb hp, hi.noRole hp,
    Bool.eq_false_iff.mpr fun ho => (hi.last ho).elim he hp, hi.widths⟩, hi.idle hl⟩

/-- While a list runs past boot's inits, the inits are done. -/
theorem State.Inv.settled_of_list {s : State} (hi : s.Inv) (hl : s.pos.list ≠ .none)
    (hn : s.fsm = .boot → s.nextInit = none) : s.Settled := by
  have hf := Fsm.of_mayRun hi.lists hl
  have hp : s.fsm ≠ .panic := fun h => by simp [h] at hf
  have he : s.fsm ≠ .exit := fun h => by simp [h] at hf
  refine ⟨?_, ?_, hi.noRole hp, Bool.eq_false_iff.mpr fun ho => (hi.last ho).elim he hp, hi.widths⟩
  · by_cases hb : s.fsm = .boot
    · exact (hi.bootList hb (hn hb)).2
    · exact hi.modulus.resolve_left hb
  · by_cases hb : s.fsm = .boot
    · exact nextInit_eq_none_iff.mp (hn hb)
    · exact hi.initialised hb hp

/-! ### The word that comes next -/

/-- `s` meets the invariant's conditions outside its word, and its word at the position is `i`: a list that may run runs. -/
structure State.Runs (s : State) (i : Instr) : Prop extends s.Settled where
  lists : s.fsm.mayRun s.pos.list = true
  word : ∃ w, (listWords s.cfg s.pos.list)[s.pos.widx]? = some w ∧ decodeWord w = .ok i

theorem list_ne_none_of_word {s : State} {w : OpWord} (h : (listWords s.cfg s.pos.list)[s.pos.widx]? = some w) :
    s.pos.list ≠ .none := fun hl => by simp [hl, listWords] at h

/-- The invariant inside the word that runs. -/
theorem State.Runs.inv {s : State} {i : Instr} (h : s.Runs i) (hi : s.inWord i) : s.Inv := by
  obtain ⟨w, hw, hd⟩ := h.word
  refine h.toSettled.inv_running h.lists (list_ne_none_of_word hw) ⟨w, hw, fun j hj => ?_⟩
  rw [hd] at hj
  cases hj
  exact hi

/-- What comes next in the states that run lists. -/
theorem next_of_mayRun {s : State} (h : s.fsm.mayRun s.pos.list = true) (hl : s.pos.list ≠ .none)
    (hn : s.fsm = .boot → s.nextInit = none) : s.next = s.fetchWord := by
  rcases Fsm.of_mayRun h hl with ⟨hf, -⟩ | hf | hf | hf
  · simp only [State.next, hf, hn hf]
  all_goals simp [State.next, hf, hl]

/-- Under the invariant the sequencer fetches only while a list runs, in Boot only once the inits are done. -/
theorem State.Inv.list_of_fetch {s : State} (hi : s.Inv) (h : s.next = .listOver ∨ ∃ w, s.next = .word w) :
    s.pos.list ≠ .none ∧ (s.fsm = .boot → s.nextInit = none) := by
  have hlists := hi.lists
  refine ⟨fun hl => ?_, fun hb => ?_⟩
  · cases hf : s.fsm with
    | boot =>
      cases hn : s.nextInit with
      | none => simp [(hi.bootList hf hn).1] at hl
      | some r => simp [next_boot_iff.mpr ⟨hf, hn⟩] at h
    | auto => simp [hf, hl, Fsm.mayRun] at hlists
    | topMenu | manual | immediate => simp [State.next, hf, hl] at h
    | exit => cases ho : s.owed <;> simp [next_of_terminal (.inl hf), ho] at h
    | panic => cases ho : s.owed <;> simp [next_of_terminal (.inr hf), ho] at h
  · cases hn : s.nextInit with
    | none => rfl
    | some r => simp [next_boot_iff.mpr ⟨hb, hn⟩] at h

/-- Under the invariant the word that comes next is one of a list that may run, and the position is inside it. -/
theorem State.Inv.runs_of_word {s : State} {w : OpWord} {i : Instr} (hi : s.Inv) (h : s.next = .word w)
    (hd : decodeWord w = .ok i) : s.Runs i ∧ s.inWord i := by
  obtain ⟨hl, hn⟩ := hi.list_of_fetch (.inr ⟨w, h⟩)
  rw [next_of_mayRun hi.lists hl hn, fetchWord_eq_word] at h
  obtain ⟨v, hv, hin⟩ := hi.running hl
  rw [h] at hv
  cases hv
  exact ⟨⟨hi.settled_of_list hl hn, hi.lists, w, h, hd⟩, hin i hd⟩

/-- Under the invariant no position is past the end of its list (log 4). -/
theorem State.Inv.next_ne_listOver {s : State} (hi : s.Inv) : s.next ≠ .listOver := by
  intro h
  obtain ⟨hl, hn⟩ := hi.list_of_fetch (.inl h)
  obtain ⟨w, hw, -⟩ := hi.running hl
  rw [next_of_mayRun hi.lists hl hn, fetchWord_eq_word.mpr hw] at h
  cases h

/-! ### The position where a word starts -/

theorem timerFits_zero (m : Micro) : timerFits 0 m := by cases m <;> simp [timerFits]

theorem inWord_action (s : State) (a : Action) : s.inWord a.instr = s.inAction a := by cases a <;> rfl

theorem inWord_drawOn {s : State} {t : Nat} (hg : s.pos.gph = .drawOn) : s.inWord (.randomRun t) ↔
    s.tCur = .is t ∧ s.timer = 0 ∧
      s.pos = { Pos.rest with list := s.pos.list, widx := s.pos.widx, gph := .drawOn } := by
  simp only [State.inWord, hg]

theorem inWord_drawOff {s : State} {t : Nat} (hg : s.pos.gph = .drawOff) : s.inWord (.randomRun t) ↔
    s.tCur = .is t ∧ s.timer = 0 ∧
      s.pos = { Pos.rest with list := s.pos.list, widx := s.pos.widx, gph := .drawOff } ∧
      countFits s.cfg s.countOn := by
  simp only [State.inWord, hg]

theorem inWord_body {s : State} {t : Nat} (hg : s.pos.gph = .body) : s.inWord (.randomRun t) ↔
    s.tCur = .is t ∧ countFits s.cfg s.countOn ∧ countFits s.cfg s.countOff ∧ s.pos.cyc ≤ s.cfg.rrCycles ∧
      s.pos.k ≤ s.segCount ∧ s.inStep (decide (s.pos.seg ≠ .off)) t := by
  simp only [State.inWord, hg]

theorem inWord_flush {s : State} {t : Nat} (hg : s.pos.gph = .flush) : s.inWord (.randomRun t) ↔
    s.tCur = .is t ∧ countFits s.cfg s.countOn ∧ countFits s.cfg s.countOff ∧ s.pos.cyc = 0 ∧ s.pos.seg = .on1 ∧
      s.pos.k < s.cfg.rrFlush ∧ s.inStep false t := by
  simp only [State.inWord, hg]

theorem actionMicros_length_pos (c : Config) (a : Action) : 0 < (actionMicros c a).length := by
  cases a <;> simp [actionMicros, pulse, shiftBit]

theorem stepMicros_length_pos (c : Config) (v : Level) (t : Nat) (p : Sph) : 0 < (stepMicros c v t p).length := by
  cases p with
  | act => exact actionMicros_length_pos c _
  | latch => exact actionMicros_length_pos c .latch
  | delay => exact Nat.one_pos

theorem inAction_of_lt {s : State} {a : Action} (hc : s.tCur = .unknown)
    (hp : s.pos = { Pos.rest with list := s.pos.list, widx := s.pos.widx, u := s.pos.u })
    (hu : s.pos.u < (actionMicros s.cfg a).length) (ht : s.timer = 0) : s.inAction a :=
  ⟨hc, hp, _, List.getElem?_eq_getElem hu, ht ▸ timerFits_zero _⟩

theorem inStep_of_lt {s : State} {v : Level} {t : Nat} (hu : s.pos.u < (stepMicros s.cfg v t s.pos.sph).length)
    (ht : s.timer = 0) : s.inStep v t :=
  ⟨_, List.getElem?_eq_getElem hu, ht ▸ timerFits_zero _⟩

/-- At the start of a part of a Step the position is inside it. -/
theorem inStep_start {s : State} (v : Level) (t : Nat) (hu : s.pos.u = 0) (ht : s.timer = 0) : s.inStep v t :=
  inStep_of_lt (hu ▸ stepMicros_length_pos ..) ht

/-- Where a word starts (`wordEntry`), the position is inside it. -/
theorem inWord_of_wordEntry {s : State} {w : OpWord} {i : Instr} {e : Gph × OrUnknown Nat} (hd : decodeWord w = .ok i)
    (he : wordEntry s.cfg w = some e)
    (hp : s.pos = { Pos.rest with list := s.pos.list, widx := s.pos.widx, gph := e.1 }) (hc : s.tCur = e.2)
    (ht : s.timer = 0) : s.inWord i := by
  have action (a : Action) (hia : i = a.instr) : s.inWord i := by
    have hee : e = (.body, .unknown) := by
      subst hia
      cases a <;> simpa [wordEntry, hd, Action.instr, eq_comm] using he
    subst hia hee
    rw [inWord_action]
    refine inAction_of_lt hc ?_ ?_ ht
    · rw [hp]; rfl
    · rw [hp]; exact actionMicros_length_pos ..
  have hu : s.pos.u = 0 := by rw [hp]; rfl
  obtain ⟨hl, hcen, hr, hb⟩ := decodeWord_not_event hd
  cases i with
  | clearRegister => exact action .clearRegister rfl
  | clearRegisterInverted => exact action .clearRegisterInverted rfl
  | enableOutputInverted => exact action .enableOutputInverted rfl
  | shiftZero => exact action .shiftZero rfl
  | shiftOne => exact action .shiftOne rfl
  | latch => exact action .latch rfl
  | sweep t =>
    simp only [wordEntry, hd, Option.ite_none_left_eq_some, Option.some.injEq] at he
    obtain ⟨hne, rfl⟩ := he
    refine ⟨hc, by rw [hp], by rw [hp]; rfl, by rw [hp]; rfl, ?_, inStep_start _ _ hu ht⟩
    rw [hp]
    simp only [Pos.rest]
    omega
  | alternate t =>
    simp only [wordEntry, hd, Option.ite_none_left_eq_some, Option.some.injEq] at he
    obtain ⟨hne, rfl⟩ := he
    refine ⟨hc, by rw [hp], by rw [hp]; rfl, by rw [hp]; rfl, ?_, inStep_start _ _ hu ht⟩
    rw [hp]
    exact Nat.pos_of_ne_zero hne
  | randomRun t =>
    simp only [wordEntry, hd, Option.some.injEq] at he
    subst he
    exact (inWord_drawOn (by rw [hp])).mpr ⟨hc, ht, hp⟩
  | left => exact absurd rfl hl
  | center => exact absurd rfl hcen
  | right => exact absurd rfl hr
  | back => exact absurd rfl hb

/-! ### The start and the end of a list -/

/-- The end of a list that may run (43_modecontroller.md R172). -/
theorem leaveList_inv {s : State} {l : ListName} (h : s.Settled) (hf : s.fsm.mayRun l = true) (hl : l ≠ .none)
    (ht : s.timer = 0) : s.leaveList.Inv := by
  have h' : s.leaveList.Settled := { h with }
  refine h'.inv_idle ?_ rfl ht rfl
  rcases Fsm.of_mayRun hf hl with ⟨hf, -⟩ | hf | hf | hf <;> simp [hf]

/-- A list that may run, entered from its word `n` on. -/
theorem enterFrom_inv {s : State} {l : ListName} (h : s.Settled) (hf : s.fsm.mayRun l = true) (hl : l ≠ .none)
    (ht : s.timer = 0) (n : Nat) : (s.enterFrom l ((listWords s.cfg l).drop n) n).Inv := by
  rcases enterFrom_cases l ((listWords s.cfg l).drop n) n s with ⟨m, w, e, hw, he, -, heq⟩ | ⟨-, heq⟩ <;> rw [heq]
  · rw [List.getElem?_drop] at hw
    have h' : State.Settled { s with pos := { Pos.rest with list := l, widx := n + m, gph := e.1 }, tCur := e.2 } :=
      { h with }
    exact h'.inv_running hf hl ⟨w, hw, fun i hd => inWord_of_wordEntry hd he rfl rfl ht⟩
  · exact leaveList_inv h hf hl ht

theorem startList_inv {s : State} {l : ListName} (h : s.Settled) (hf : s.fsm.mayRun l = true) (hl : l ≠ .none)
    (ht : s.timer = 0) : (s.startList l).Inv := enterFrom_inv h hf hl ht 0

theorem State.Runs.endWord_inv {s : State} {i : Instr} (h : s.Runs i) (ht : s.timer = 0) : s.endWord.Inv := by
  obtain ⟨w, hw, -⟩ := h.word
  exact enterFrom_inv h.toSettled h.lists (list_ne_none_of_word hw) ht _

end Sys2Proof.Machine
end

section
/-! Every step keeps the invariant (10_state.md R35): the steps of a word, the events, boot's inits, the terminal states
and reset. -/

namespace Sys2Proof.Machine

/-! ### One micro-operation -/

/-- `b` is `s` but for what micro-operations write (the pins, the register at its width, the timer, the ghost fields) and
for the place inside an Action or a counted loop of Steps (`k`, `sph`, `u`). -/
def Near (s b : State) : Prop :=
  ∃ ps x n tr el k p u, x.sh.length = s.ext.sh.length ∧
    (s.ext.st.length = s.ext.sh.length → x.st.length = s.ext.st.length) ∧
    b = { s with
      pins := ps, ext := x, timer := n, trace := tr, elapsed := el
      pos := { s.pos with k := k, sph := p, u := u } }

/-- Moving inside the loop stays near. -/
theorem Near.move {s b : State} (h : Near s b) (k : Nat) (p : Sph) (u : Nat) :
    Near s { b with pos := { b.pos with k := k, sph := p, u := u } } := by
  obtain ⟨ps, x, n, tr, el, _, _, _, hsh, hst, rfl⟩ := h
  exact ⟨ps, x, n, tr, el, k, p, u, hsh, hst, rfl⟩

/-- What micro-operations write leaves the list, its word and the conditions outside the word as they are. -/
theorem State.Runs.near {s b : State} {i : Instr} (h : s.Runs i) (hb : Near s b) : b.Runs i := by
  obtain ⟨_, _, _, _, _, _, _, _, hsh, hst, rfl⟩ := hb
  obtain ⟨w1, w2⟩ := h.widths
  exact { h with widths := ⟨hsh.trans w1, (hst (w2.trans w1.symm)).trans w2⟩ }

/-- A step at a micro-operation in progress stays at it, its timer still fitting, or completes it: then the position
advances with the timer at zero (10_state.md R27, R31). -/
theorem runMicro_fits {s : State} {m : Micro} (h : timerFits s.timer m) (adv : State → State) :
    ∃ b, Near s b ∧ b.pos = s.pos ∧
      ((s.runMicro adv (some m) = b ∧ timerFits b.timer m) ∨ (s.runMicro adv (some m) = adv b ∧ b.timer = 0)) := by
  have tickNear : Near s s.tick := ⟨_, _, _, _, _, _, _, _, rfl, fun _ => rfl, rfl⟩
  have waitNear (d : Nat) : Near s (s.beginWait d) := ⟨_, _, _, _, _, _, _, _, rfl, fun _ => rfl, rfl⟩
  cases m with
  | write r l =>
    have writeNear : Near s (s.pinWrite r l) :=
      ⟨_, _, _, _, _, _, _, _, ExtReg.length_react_sh .., ExtReg.length_react_st _ _ _ _, rfl⟩
    exact ⟨_, writeNear, rfl, .inr ⟨runMicro_write s adv r l h, h⟩⟩
  | wait d =>
    simp only [timerFits] at h
    by_cases h0 : s.timer = 0
    · refine ⟨s.beginWait d, waitNear d, rfl, ?_⟩
      by_cases hd : d = 0
      · subst hd
        exact .inr ⟨runMicro_wait_zero s adv h0, rfl⟩
      · exact .inl ⟨runMicro_wait_begin s adv d h0 hd, le_refl d⟩
    · refine ⟨s.tick, tickNear, rfl, ?_⟩
      by_cases h1 : s.timer = 1
      · exact .inr ⟨runMicro_wait_last s adv d h1, by simp [h1]⟩
      · refine .inl ⟨runMicro_wait_more s adv d (by omega), ?_⟩
        simp only [timerFits, State.tick_timer]
        omega

/-! ### Action words -/

theorem advanceAction_inv {b : State} {a : Action} (h : b.Runs a.instr) (hc : b.tCur = .unknown)
    (hp : b.pos = { Pos.rest with list := b.pos.list, widx := b.pos.widx, u := b.pos.u }) (ht : b.timer = 0) :
    (b.advanceAction a).Inv := by
  unfold State.advanceAction
  split
  · next hu =>
    have h' : (b.setU (b.pos.u + 1)).Runs a.instr := { h with }
    refine h'.inv ?_
    rw [inWord_action]
    exact inAction_of_lt hc (by rw [State.setU_pos, hp]) hu ht
  · exact h.endWord_inv ht

theorem actionStep_inv {s : State} {a : Action} (h : s.Runs a.instr) (hin : s.inAction a) : (s.actionStep a).Inv := by
  obtain ⟨hc, hp, m, hm, hfit⟩ := hin
  obtain ⟨b, hb, hpos, hstep⟩ := runMicro_fits hfit (State.advanceAction a)
  have hruns := h.near hb
  obtain ⟨_, _, _, _, _, _, _, _, -, -, rfl⟩ := hb
  have hp' := hpos ▸ hp
  unfold State.actionStep
  rw [hm]
  rcases hstep with ⟨e, hn⟩ | ⟨e, hn⟩ <;> rw [e]
  · refine hruns.inv ?_
    rw [inWord_action]
    exact ⟨hc, hp', m, hpos ▸ hm, hn⟩
  · exact advanceAction_inv hruns hc hp' hn

/-! ### Steps of the generators -/

theorem stepDelay_of_tCur {s : State} {t : Nat} (h : s.tCur = .is t) (d : Nat) : s.stepDelay d = t := by
  simp only [State.stepDelay, h]

/-- One step inside a Step of a generator word keeps the invariant, if the word holds at every place inside the Step and
what follows the Step keeps the invariant. -/
theorem genStep_inv {s : State} {i : Instr} {v : Level} {t : Nat} {after : State → State} (h : s.Runs i)
    (hc : s.tCur = .is t) (hin : s.inStep v t)
    (inside : ∀ b, Near s b → b.pos.k = s.pos.k → b.inStep v t → b.inWord i)
    (done : ∀ b, Near s b → b.pos.k = s.pos.k → b.timer = 0 → (after b).Inv) : (s.genStep v t after).Inv := by
  obtain ⟨m, hm, hfit⟩ := hin
  simp only [State.genStep, stepDelay_of_tCur hc]
  rw [hm]
  obtain ⟨b, hb, hpos, hstep⟩ :=
    runMicro_fits hfit (State.advanceStep (stepMicros s.cfg v t s.pos.sph).length after)
  have hcfg : b.cfg = s.cfg := by
    obtain ⟨_, _, _, _, _, _, _, _, -, -, rfl⟩ := hb
    rfl
  have hk : b.pos.k = s.pos.k := by rw [hpos]
  have move (p : Sph) (u : Nat) (hu : u < (stepMicros s.cfg v t p).length) (ht : b.timer = 0) :
      State.Inv { b with pos := { b.pos with sph := p, u := u } } := by
    have hnear := hb.move b.pos.k p u
    exact (h.near hnear).inv (inside _ hnear hk (inStep_of_lt (hcfg ▸ hu) ht))
  rcases hstep with ⟨e, hn⟩ | ⟨e, ht⟩ <;> rw [e]
  · exact (h.near hb).inv (inside b hb hk ⟨m, by rw [hcfg, hpos, hm], hn⟩)
  · unfold State.advanceStep
    split
    · next hu => exact move b.pos.sph _ (hpos ▸ hu) ht
    · split
      · exact move .latch 0 (stepMicros_length_pos ..) ht
      · exact move .delay 0 (stepMicros_length_pos ..) ht
      · exact done b hb hk ht

/-- One step of a counted loop of Steps, whose Step `k` shifts `f k`, keeps the invariant, if the word holds at every place
inside the loop and what follows the loop keeps the invariant (10_state.md R31). -/
theorem loopStep_inv {s : State} {i : Instr} {t bound : Nat} {f : Nat → Level} {done : State → State} (h : s.Runs i)
    (hc : s.tCur = .is t) (hk : s.pos.k < bound) (hin : s.inStep (f s.pos.k) t)
    (inside : ∀ b, Near s b → b.pos.k < bound → b.inStep (f b.pos.k) t → b.inWord i)
    (hdone : ∀ b, Near s b → b.timer = 0 → (done b).Inv) :
    (s.genStep (f s.pos.k) t (State.nextK bound done)).Inv := by
  refine genStep_inv h hc hin (fun b hb hbk hbin => inside b hb (hbk ▸ hk) (hbk ▸ hbin)) (fun b hb _ ht => ?_)
  unfold State.nextK
  split
  · next hlt =>
    have hnear := hb.move (b.pos.k + 1) .act 0
    exact (h.near hnear).inv (inside _ hnear hlt (inStep_start _ t rfl ht))
  · exact hdone b hb ht

theorem sweepStep_inv {s : State} {t : Nat} (h : s.Runs (.sweep t)) (hin : s.inWord (.sweep t)) :
    (s.sweepStep t).Inv := by
  obtain ⟨hc, hg, hcyc, hseg, hk, hs⟩ := hin
  refine loopStep_inv (f := fun k => decide (k < s.cfg.sweepHalf)) h hc hk hs (fun b hb hbk hbin => ?_)
    fun b hb ht => (h.near hb).endWord_inv ht
  obtain ⟨_, _, _, _, _, _, _, _, -, -, rfl⟩ := hb
  exact ⟨hc, hg, hcyc, hseg, hbk, hbin⟩

theorem alternateStep_inv {s : State} {t : Nat} (h : s.Runs (.alternate t)) (hin : s.inWord (.alternate t)) :
    (s.alternateStep t).Inv := by
  obtain ⟨hc, hg, hcyc, hseg, hk, hs⟩ := hin
  refine loopStep_inv (f := fun k => decide (k % 2 = 0)) h hc hk hs (fun b hb hbk hbin => ?_)
    fun b hb ht => (h.near hb).endWord_inv ht
  obtain ⟨_, _, _, _, _, _, _, _, -, -, rfl⟩ := hb
  exact ⟨hc, hg, hcyc, hseg, hbk, hbin⟩

/-! ### RandomRun -/

theorem afterDraw_frame (s : State) : ∃ rs d tr, s.afterDraw = { s with rndIn := rs, draws := d, trace := tr } := by
  unfold State.afterDraw
  split <;> exact ⟨_, _, _, rfl⟩

/-- A reduced draw is in the range of a count (42_patternengine.md R137). -/
theorem countFits_drawCount {c : Config} (h : c.rrMod ≠ 0) (x : Draw) : countFits c (.is (drawCount c x)) := by
  have hlt := Nat.mod_lt x.toNat (Nat.pos_of_ne_zero h)
  simp only [countFits, drawCount]
  omega

theorem drawOnStep_inv {s : State} {t : Nat} (h : s.Runs (.randomRun t)) (hg : s.pos.gph = .drawOn)
    (hin : s.inWord (.randomRun t)) : s.drawOnStep.Inv := by
  obtain ⟨hc, ht, hp⟩ := (inWord_drawOn hg).mp hin
  obtain ⟨rs, d, tr, hd⟩ := afterDraw_frame s
  rw [State.drawOnStep, if_pos ht, hd]
  refine State.Runs.inv (i := .randomRun t) { h with } ((inWord_drawOff rfl).mpr ⟨hc, ht, ?_, ?_⟩)
  · rw [hp]
  · exact countFits_drawCount h.modulus _

theorem drawOffStep_inv {s : State} {t : Nat} (h : s.Runs (.randomRun t)) (hg : s.pos.gph = .drawOff)
    (hin : s.inWord (.randomRun t)) : s.drawOffStep.Inv := by
  obtain ⟨hc, ht, -, hon⟩ := (inWord_drawOff hg).mp hin
  obtain ⟨rs, d, tr, hd⟩ := afterDraw_frame s
  rw [State.drawOffStep, if_pos ht, hd]
  exact State.Runs.inv (i := .randomRun t) { h with } ((inWord_body rfl).mpr
    ⟨hc, hon, countFits_drawCount h.modulus _, Nat.zero_le _, Nat.zero_le _, inStep_start _ t rfl ht⟩)

/-- After the last repetition the flush starts, or the word ends. -/
theorem enterFlush_inv {s : State} {t : Nat} (h : s.Runs (.randomRun t)) (hc : s.tCur = .is t)
    (hon : countFits s.cfg s.countOn) (hoff : countFits s.cfg s.countOff) (ht : s.timer = 0) : s.enterFlush.Inv := by
  unfold State.enterFlush
  split
  · exact h.endWord_inv ht
  · next hne =>
    exact State.Runs.inv (i := .randomRun t) { h with } ((inWord_flush rfl).mpr
      ⟨hc, hon, hoff, rfl, rfl, Nat.pos_of_ne_zero hne, inStep_start _ t rfl ht⟩)

/-- After a segment: the next segment, the next repetition, or the flush. -/
theorem nextSeg_inv {s : State} {t : Nat} (h : s.Runs (.randomRun t)) (hg : s.pos.gph = .body) (hc : s.tCur = .is t)
    (hon : countFits s.cfg s.countOn) (hoff : countFits s.cfg s.countOff) (hcyc : s.pos.cyc ≤ s.cfg.rrCycles)
    (ht : s.timer = 0) : s.nextSeg.Inv := by
  have start (g : Seg) (n : Nat) (hn : n ≤ s.cfg.rrCycles) :
      State.Inv { s with pos := { s.pos with cyc := n, seg := g, k := 0, sph := .act, u := 0 } } :=
    State.Runs.inv (i := .randomRun t) { h with } (Iff.mpr (inWord_body hg)
      ⟨hc, hon, hoff, hn, Nat.zero_le _, inStep_start _ t rfl ht⟩)
  unfold State.nextSeg
  split
  · exact start .off _ hcyc
  · exact start .on2 _ hcyc
  · split
    · next hlt => exact start .on1 _ hlt
    · exact enterFlush_inv h hc hon hoff ht

theorem bodyStep_inv {s : State} {t : Nat} (h : s.Runs (.randomRun t)) (hg : s.pos.gph = .body)
    (hin : s.inWord (.randomRun t)) : (s.bodyStep t).Inv := by
  obtain ⟨hc, hon, hoff, hcyc, hk, hs⟩ := (inWord_body hg).mp hin
  refine loopStep_inv (f := fun _ => decide (s.pos.seg ≠ .off)) h hc (Nat.lt_succ_of_le hk) hs
    (fun b hb hbk hbin => ?_) (fun b hb ht => ?_)
  · obtain ⟨_, _, _, _, _, _, _, _, -, -, rfl⟩ := hb
    exact Iff.mpr (inWord_body hg) ⟨hc, hon, hoff, hcyc, Nat.le_of_lt_succ hbk, hbin⟩
  · have hruns := h.near hb
    obtain ⟨_, _, _, _, _, _, _, _, -, -, rfl⟩ := hb
    exact nextSeg_inv hruns hg hc hon hoff hcyc ht

theorem flushStep_inv {s : State} {t : Nat} (h : s.Runs (.randomRun t)) (hg : s.pos.gph = .flush)
    (hin : s.inWord (.randomRun t)) : (s.flushStep t).Inv := by
  obtain ⟨hc, hon, hoff, hcyc, hseg, hk, hs⟩ := (inWord_flush hg).mp hin
  refine loopStep_inv (f := fun _ => false) h hc hk hs (fun b hb hbk hbin => ?_)
    fun b hb ht => (h.near hb).endWord_inv ht
  obtain ⟨_, _, _, _, _, _, _, _, -, -, rfl⟩ := hb
  exact Iff.mpr (inWord_flush hg) ⟨hc, hon, hoff, hcyc, hseg, hbk, hbin⟩

theorem randomRunStep_inv {s : State} {t : Nat} (h : s.Runs (.randomRun t)) (hin : s.inWord (.randomRun t)) :
    (s.randomRunStep t).Inv := by
  unfold State.randomRunStep
  split
  · next hg => exact drawOnStep_inv h hg hin
  · next hg => exact drawOffStep_inv h hg hin
  · next hg => exact bodyStep_inv h hg hin
  · next hg => exact flushStep_inv h hg hin

/-- The meaning of an operation word keeps the invariant, from a position inside the word. -/
theorem exec_word_inv {s t : State} {i : Instr} (h : s.Runs i) (hin : s.inWord i) (he : exec i s = .next t) : t.Inv := by
  cases i with
  | clearRegister => cases he; exact actionStep_inv (a := .clearRegister) h hin
  | clearRegisterInverted => cases he; exact actionStep_inv (a := .clearRegisterInverted) h hin
  | enableOutputInverted => cases he; exact actionStep_inv (a := .enableOutputInverted) h hin
  | shiftZero => cases he; exact actionStep_inv (a := .shiftZero) h hin
  | shiftOne => cases he; exact actionStep_inv (a := .shiftOne) h hin
  | latch => cases he; exact actionStep_inv (a := .latch) h hin
  | sweep d => cases he; exact sweepStep_inv h hin
  | alternate d => cases he; exact alternateStep_inv h hin
  | randomRun d => cases he; exact randomRunStep_inv h hin
  | left | center | right | back => exact hin.elim

/-! ### Events -/

/-- A selection keeps the invariant, if the mode it enters from TopMenu takes events or runs SCRIPT, and its lists are
lists of Manual and of Immediate (43_modecontroller.md R160, R161). -/
theorem select_inv {s : State} (hi : s.Inv) (e : Event) {mode : Fsm} {l1 l2 : ListName}
    (hm : mode = .auto ∨ mode = .manual ∨ mode = .immediate) (h1 : Fsm.manual.mayRun l1 = true ∧ l1 ≠ .none)
    (h2 : Fsm.immediate.mayRun l2 = true ∧ l2 ≠ .none) : (s.select e mode l1 l2).Inv := by
  unfold State.select
  split
  · next hr =>
    obtain ⟨hs, hp, ht, hc⟩ := hi.settled_of_evReady hr
    have hemit : (s.emit (.event e)).Settled := { hs with }
    have hfsm := ((evReady_iff s).mp hr).1
    split
    · split
      · have hauto : State.Settled { s.emit (.event e) with fsm := .auto } := { hs with }
        exact startList_inv hauto rfl (by decide) ht
      · next ha =>
        have hmode : State.Settled { s.emit (.event e) with fsm := mode } := { hs with }
        exact hmode.inv_idle (.inr (hm.resolve_left ha)) hp ht hc
    · next hf => exact startList_inv hemit (by simp [hf, h1.1]) h1.2 ht
    · next htop hman =>
      have hf := (hfsm.resolve_left htop).resolve_left hman
      exact startList_inv hemit (by simp [hf, h2.1]) h2.2 ht
  · exact hi

theorem cancel_inv {s : State} (hi : s.Inv) : s.cancel.Inv := by
  unfold State.cancel
  split
  · next hr =>
    obtain ⟨hs, hp, ht, hc⟩ := hi.settled_of_evReady hr
    split
    · exact { hi with
        modulus := .inr hs.modulus
        booting := fun _ hb => by simp at hb
        bootList := fun hb => by simp at hb
        initialised := fun _ _ => hs.inits
        panicked := fun hb => by simp at hb
        noRole := fun _ => hs.noRole
        lists := by simp [hp, Pos.rest, Fsm.mayRun]
        last := fun _ => .inl rfl }
    · have htop : State.Settled { s.emit (.event .back) with fsm := .topMenu } := { hs with }
      exact htop.inv_idle (.inl rfl) hp ht hc
  · exact hi

/-- Taking an event code off the port and running it keeps the invariant. -/
theorem exec_event_inv {s t : State} (hi : s.Inv) (c : EvCode) (he : exec (decodeEvent c) s = .next t) : t.Inv := by
  unfold decodeEvent at he
  split at he <;> cases he
  · exact select_inv hi _ (by decide) (by decide) (by decide)
  · exact select_inv hi _ (by decide) (by decide) (by decide)
  · exact select_inv hi _ (by decide) (by decide) (by decide)
  · exact cancel_inv hi

/-! ### Boot -/

/-- With the init of `r` done as well, the next role is uninitialised, or all inits are done
(70_reset_and_hazards.md R211). -/
theorem initBefore_set (r : Role) :
    (∃ q, (initBefore r).set r true = initBefore q) ∨ (initBefore r).set r true = allInit := by
  cases r with
  | ser => exact .inl ⟨.oe, rfl⟩
  | oe => exact .inl ⟨.rclk, rfl⟩
  | rclk => exact .inl ⟨.srclk, rfl⟩
  | srclk => exact .inl ⟨.srclr, rfl⟩
  | srclr => exact .inr rfl

theorem initDone_inv {s : State} {r : Role} (hi : s.Inv) (hf : s.fsm = .boot) (hn : s.nextInit = some r)
    (hmod : s.cfg.rrMod ≠ 0) : (s.initDone r).Inv := by
  obtain ⟨hinit, hpins, ht, hc, hp⟩ := hi.booting r hf hn
  have hpanic : s.fsm ≠ .panic := by simp [hf]
  have howed : s.owed = false := Bool.eq_false_iff.mpr fun ho => by simpa [hf] using hi.last ho
  simp only [State.initDone, hinit]
  rcases initBefore_set r with ⟨q, hq⟩ | hq <;> rw [hq]
  · have hnext : State.nextInit { s with init := initBefore q } = some q := nextInit_of_initBefore rfl
    rw [if_neg (by simp [hnext])]
    exact { hi with
      booting := fun q' _ hq' => by
        cases hnext.symm.trans hq'
        exact ⟨rfl, hpins, ht, hc, hp⟩
      bootList := fun _ hnone => by simp [hnext] at hnone
      initialised := fun hb => absurd hf hb
      panicked := fun h => absurd h hpanic }
  · have hs : State.Settled { s with init := allInit } := ⟨hmod, rfl, hi.noRole hpanic, howed, hi.widths⟩
    have hnext : State.nextInit { s with init := allInit } = none := nextInit_eq_none_iff.mpr rfl
    by_cases hl : s.pos.list = .none
    · rw [if_pos ⟨hnext, hl⟩]
      have h' : State.Settled (State.leaveList { s with init := allInit }) := { hs with }
      exact h'.inv_idle (.inl (by simp [hf])) rfl ht rfl
    · rw [if_neg (by simp [hl])]
      exact hs.inv_running hi.lists hl (hi.running hl)

theorem raisePanic_inv {s : State} {r : Role} (hi : s.Inv) (hf : s.fsm = .boot) (hn : s.nextInit = some r)
    (hmod : s.cfg.rrMod ≠ 0) : (s.raisePanic r).Inv := by
  obtain ⟨hinit, hpins, ht, hc, -⟩ := hi.booting r hf hn
  exact
    { modulus := .inr hmod
      booting := fun _ hb => by simp at hb
      bootList := fun hb => by simp at hb
      initialised := fun _ hp => absurd rfl hp
      panicked := fun _ => ⟨hpins, r, rfl, hinit⟩
      noRole := fun hp => absurd rfl hp
      lists := rfl
      idle := fun _ => ⟨rfl, ht, hc⟩
      running := fun hl => absurd rfl hl
      widths := hi.widths
      last := fun _ => .inr rfl }

theorem rrMod_ne_zero_of_wellFormed {c : Config} (h : c.wellFormed = true) : c.rrMod ≠ 0 := by
  simp only [Config.wellFormed, Bool.and_eq_true, decide_eq_true_eq] at h
  obtain ⟨⟨⟨-, hmod⟩, -⟩, -⟩ := h
  exact hmod

theorem bootInit_inv {s : State} {r : Role} (hi : s.Inv) (hf : s.fsm = .boot) (hn : s.nextInit = some r)
    (hc : s.cfg.wellFormed = true) : (s.bootInit r).Inv := by
  have hemit : (s.emit (.init r)).Inv := { hi with }
  have hmod := rrMod_ne_zero_of_wellFormed hc
  unfold State.bootInit
  split
  · exact initDone_inv hemit hf hn hmod
  · exact raisePanic_inv hemit hf hn hmod

/-! ### Reset and the whole step -/

/-- After reset no pin is known, no init done, and the position is at the start of the first word of RESET, if there is
one (10_state.md R34). -/
theorem resetWith_inv (c : Config) : (State.resetWith c).Inv where
  modulus := .inl rfl
  booting := fun r _ hn => by
    have hser : (State.resetWith c).nextInit = some .ser := nextInit_of_initBefore rfl
    cases hser.symm.trans hn
    exact ⟨rfl, rfl, rfl, rfl, rfl⟩
  bootList := fun _ hn => by
    have hser : (State.resetWith c).nextInit = some .ser := nextInit_of_initBefore rfl
    simp [hser] at hn
  initialised := fun hb => absurd rfl hb
  panicked := fun hp => by cases hp
  noRole := fun _ => rfl
  lists := by by_cases h : c.resetActions = [] <;> simp [State.resetWith, h, Fsm.mayRun]
  idle := fun hl => by
    refine ⟨?_, rfl, rfl⟩
    change Pos.mk .. = Pos.mk ..
    rw [show (if c.resetActions = [] then ListName.none else .reset) = .none from hl]
    rfl
  running := fun hl => by
    cases hc : c.resetActions with
    | nil => simp [State.resetWith, hc] at hl
    | cons a as =>
      refine ⟨a.word, by simp [State.resetWith, hc, listWords, Pos.rest], fun i hd => ?_⟩
      rw [decodeWord_actionWord] at hd
      cases hd
      rw [inWord_action]
      exact inAction_of_lt rfl rfl (actionMicros_length_pos c a) rfl
  widths := ⟨Stage.length_fill .., Stage.length_fill ..⟩
  last := fun ho => by cases ho

/-- Settles O46: `resetWith_inv`, of which the reset state is one case. -/
theorem invariantAtReset : Obligations.InvariantAtReset := ⟨resetWith_inv _, resetWith_inv⟩

theorem takeReset_inv (s : State) : s.takeReset.Inv := { resetWith_inv s.cfg with }

theorem emitLast_inv {s : State} (hi : s.Inv) : s.emitLast.Inv := by
  obtain ⟨tr, h⟩ := emitLast_frame s
  rw [h]
  exact { hi with last := fun ho => by cases ho }

/-- Every step of the sequencer keeps the invariant, by what comes next. -/
theorem SeqEffect.inv {s t : State} (e : SeqEffect s t) (hi : s.Inv) : t.Inv := by
  cases e with
  | boot r h hc e =>
    obtain ⟨hf, hn⟩ := next_boot_iff.mp h
    exact e ▸ bootInit_inv hi hf hn hc
  | word w i h hd e =>
    obtain ⟨hr, hin⟩ := hi.runs_of_word h hd
    exact exec_word_inv hr hin e
  | event c cs _ _ e => exact exec_event_inv (s := { s with evIn := cs }) { hi with } c e
  | blocked _ _ e => exact e ▸ hi
  | listOver h _ => exact absurd h hi.next_ne_listOver
  | last _ e => exact e ▸ emitLast_inv hi
  | stopped _ _ e => exact e ▸ hi

/-- Settles O47: a step is reset or a step of the sequencer, and the invariant does not see the level of `rst` consumed. -/
theorem invariantKept : Obligations.InvariantKept := by
  intro s t hi h
  rcases step_cases h with ⟨rs, -, rfl⟩ | ⟨rs, -, e⟩ | ⟨-, e⟩
  · exact takeReset_inv _
  · exact e.inv { hi with }
  · exact e.inv hi

/-! ### What the invariant says -/

theorem allInit_get (r : Role) : allInit.get r = true := by cases r <;> rfl

/-- A known pin is initialised (10_state.md R35 (a)): where an init is missing, every pin is unknown. -/
theorem State.Inv.init_of_known {s : State} (hi : s.Inv) {r : Role} (h : s.pins.get r ≠ .unknown) :
    s.init.get r = true := by
  have known : s.pins ≠ pinsUnknown := fun hu => h (by rw [hu]; cases r <;> rfl)
  have hall : s.init = allInit := by
    by_cases hb : s.fsm = .boot
    · cases hn : s.nextInit with
      | none => exact nextInit_eq_none_iff.mp hn
      | some q =>
        obtain ⟨-, hpins, -⟩ := hi.booting q hb hn
        exact absurd hpins known
    · exact hi.initialised hb fun hp => known (hi.panicked hp).1
  rw [hall, allInit_get]

/-- In the body and the flush of a RandomRun both counts are in range (10_state.md R35 (d)). -/
theorem State.Inv.counts_fit {s : State} {t : Nat} (hi : s.Inv) (hc : s.current = some (.randomRun t))
    (hg : s.pos.gph = .body ∨ s.pos.gph = .flush) : countFits s.cfg s.countOn ∧ countFits s.cfg s.countOff := by
  obtain ⟨w, hw, hd⟩ := current_eq_some_iff.mp hc
  obtain ⟨-, hin⟩ := hi.runs_of_word hw hd
  rcases hg with hg | hg
  · obtain ⟨-, hon, hoff, -⟩ := (inWord_body hg).mp hin
    exact ⟨hon, hoff⟩
  · obtain ⟨-, hon, hoff, -⟩ := (inWord_flush hg).mp hin
    exact ⟨hon, hoff⟩

/-- A count in range under the default modulus and base (42_patternengine.md R137). -/
theorem countFits_default {c : Config} {n : OrUnknown Nat} (hm : c.rrMod = 4) (hb : c.rrBase = 1) (h : countFits c n) :
    ∃ k, n = .is k ∧ 1 ≤ k ∧ k ≤ 4 := by
  cases n with
  | unknown => exact h.elim
  | is k =>
    simp only [countFits, hm, hb] at h
    exact ⟨k, rfl, by omega, by omega⟩

/-- Settles O48, clause by clause from the fields of the invariant. -/
theorem invariantMeaning : Obligations.InvariantMeaning := by
  intro s hi
  refine ⟨fun r => hi.init_of_known, fun hb hp r => ?_, fun t hm hb hc hg => ?_, fun ⟨hr, hbusy⟩ => ?_, fun hf => ?_,
    hi.widths⟩
  · rw [hi.initialised hb hp, allInit_get]
  · obtain ⟨hon, hoff⟩ := hi.counts_fit hc hg
    obtain ⟨c1, h1, hl1, hu1⟩ := countFits_default hm hb hon
    obtain ⟨c2, h2, hl2, hu2⟩ := countFits_default hm hb hoff
    exact ⟨c1, c2, h1, h2, hl1, hu1, hl2, hu2⟩
  · obtain ⟨hf, hl⟩ := (evReady_iff s).mp hr
    rw [busy_iff] at hbusy
    simp [hl] at hbusy
    simp [hbusy] at hf
  · have hlists := hi.lists
    rw [hf] at hlists
    exact Fsm.eq_script_of_mayRun_auto hlists

end Sys2Proof.Machine
end

section
/-! The pins and the external register: how the register reacts to each write (20_memory.md R62), that a step touches the
two only at its `W r l` event (R53), and that no step writes the configuration (R60). -/

namespace Sys2Proof.Machine

/-! ### The edges of the two clocks -/

section
variable {p : PerRole (OrUnknown Level)} (x : ExtReg)

theorem ExtReg.clockIn_of_srclr_high (h : p.srclr = .is true) : x.clockIn p = x.sh.shift p.ser := by
  simp only [ExtReg.clockIn, h]

theorem ExtReg.clockIn_of_srclr_low (h : p.srclr = .is false) : x.clockIn p = Stage.zero x.sh.length := by
  simp only [ExtReg.clockIn, h]

theorem ExtReg.clockIn_of_srclr_unknown (h : p.srclr = .unknown) :
    x.clockIn p = (x.sh.shift p.ser).join (Stage.zero x.sh.length) := by
  simp only [ExtReg.clockIn, h]

/-- A write high to a high SRCLK is no edge. -/
theorem ExtReg.react_srclk_of_high (h : p.srclk = .is true) : x.react p .srclk true = x := by
  simp only [ExtReg.react, h]

/-- A certain edge of SRCLK. -/
theorem ExtReg.react_srclk_of_low (h : p.srclk = .is false) : x.react p .srclk true = ⟨x.clockIn p, x.st⟩ := by
  simp only [ExtReg.react, h]

/-- A write high to SRCLK at an unknown level may or may not be an edge. -/
theorem ExtReg.react_srclk_of_unknown (h : p.srclk = .unknown) :
    x.react p .srclk true = ⟨(x.clockIn p).join x.sh, x.st⟩ := by
  simp only [ExtReg.react, h]

/-- A write high to a high RCLK is no edge. -/
theorem ExtReg.react_rclk_of_high (h : p.rclk = .is true) : x.react p .rclk true = x := by
  simp only [ExtReg.react, h]

/-- A certain edge of RCLK. -/
theorem ExtReg.react_rclk_of_low (h : p.rclk = .is false) : x.react p .rclk true = ⟨x.sh, x.sh⟩ := by
  simp only [ExtReg.react, h]

/-- A write high to RCLK at an unknown level may or may not be an edge. -/
theorem ExtReg.react_rclk_of_unknown (h : p.rclk = .unknown) : x.react p .rclk true = ⟨x.sh, x.st.join x.sh⟩ := by
  simp only [ExtReg.react, h]

end

/-- Settles O59: the edge of SRCLK by its certainty and by the level of SRCLR, the edge of RCLK by its certainty; the
other writes fall through the cases of `ExtReg.react`. -/
theorem externalRegisterReacts : Obligations.ExternalRegisterReacts := by
  intro x p l
  refine ⟨rfl, x.react_srclk_of_high, fun hk hc => ?_, fun hk hc => ?_, fun hk hc => ?_, fun hk hc => ?_,
    fun hk hc => ?_, fun hk hc => ?_, x.react_rclk_of_high, x.react_rclk_of_low, x.react_rclk_of_unknown,
    rfl, rfl, rfl, rfl, rfl⟩
  · rw [x.react_srclk_of_low hk, x.clockIn_of_srclr_high hc]
  · rw [x.react_srclk_of_low hk, x.clockIn_of_srclr_low hc]
  · rw [x.react_srclk_of_low hk, x.clockIn_of_srclr_unknown hc]
  · rw [x.react_srclk_of_unknown hk, x.clockIn_of_srclr_high hc]
  · rw [x.react_srclk_of_unknown hk, x.clockIn_of_srclr_low hc]
  · rw [x.react_srclk_of_unknown hk, x.clockIn_of_srclr_unknown hc]

/-! ### What a step can do to pins, register and configuration -/

/-- States that are seen alike have the same pins, register, trace and configuration. -/
theorem State.seen_congr {s t : State} (h : t.seen = s.seen) :
    t.pins = s.pins ∧ t.ext = s.ext ∧ t.trace = s.trace ∧ t.cfg = s.cfg := by
  simp only [State.seen, Prod.mk.injEq] at h
  obtain ⟨hp, hx, htr, -, -, hc⟩ := h
  exact ⟨hp, hx, htr, hc⟩

theorem Delta.cfg {s t : State} (d : Delta s t) : t.cfg = s.cfg := by
  cases d with
  | silent h | tick _ h | write _ _ _ h | wait _ _ h | plain _ _ h =>
    obtain ⟨-, -, -, hc⟩ := State.seen_congr h
    exact hc

/-- Only a `W r l` event touches the pins and the register. -/
theorem Delta.board {s t : State} (d : Delta s t) :
    (t.pins = s.pins ∧ t.ext = s.ext ∧ ∀ r l, t.trace ≠ s.trace ++ [.write r l]) ∨
    ∃ r l, t.trace = s.trace ++ [.write r l] ∧ t.pins = s.pins.set r (.is l) ∧ t.ext = s.ext.react s.pins r l := by
  cases d with
  | silent h | tick _ h =>
    obtain ⟨hp, hx, htr, -⟩ := State.seen_congr h
    exact .inl ⟨hp, hx, fun r l => by simp [htr]⟩
  | write r l _ h =>
    obtain ⟨hp, hx, htr, -⟩ := State.seen_congr h
    exact .inr ⟨r, l, htr, hp, hx⟩
  | wait d _ h =>
    obtain ⟨hp, hx, htr, -⟩ := State.seen_congr h
    exact .inl ⟨hp, hx, fun r l => by simp [htr]⟩
  | plain e he h =>
    obtain ⟨hp, hx, htr, -⟩ := State.seen_congr h
    refine .inl ⟨hp, hx, fun r l hw => ?_⟩
    have hev : e = .write r l := by simpa [htr] using hw
    rw [hev] at he
    exact he

/-- Settles O49: the effect of the step on pins and register, the written record read back role by role. -/
theorem pinsChangeOnlyAtWriteEvents : Obligations.PinsChangeOnlyAtWriteEvents := by
  intro s t hn h
  rcases (step_delta hn h).board with hsame | ⟨r, l, htr, hp, hx⟩
  · exact .inl hsame
  · refine .inr ⟨r, l, htr, ?_, fun q hq => ?_, hx⟩
    · rw [hp, PerRole.get_set_same]
    · rw [hp, PerRole.get_set_other _ _ hq]

/-- Reset keeps the configuration, and so does everything the sequencer does. -/
theorem step_cfg {s t : State} (h : step s = .next t) : t.cfg = s.cfg := by
  rcases step_cases h with ⟨rs, -, rfl⟩ | ⟨rs, -, e⟩ | ⟨-, e⟩
  · rfl
  · exact e.delta.cfg
  · exact e.delta.cfg

/-- Settles O52: the words of every list are read off the configuration. -/
theorem configurationNeverWritten : Obligations.ConfigurationNeverWritten :=
  fun _ _ h => ⟨step_cfg h, fun l => by rw [step_cfg h]⟩

end Sys2Proof.Machine
end

section
/-! The block is open loop (20_memory.md R55): every operation, and so every step, does the same whatever the pin record
and the external register hold, except to these two. -/

namespace Sys2Proof.Machine

/-! ### Erasing the board leaves the other fields -/

section
variable (s : State)

@[simp] theorem State.blind_fsm : s.blind.fsm = s.fsm := rfl
@[simp] theorem State.blind_pos : s.blind.pos = s.pos := rfl
@[simp] theorem State.blind_panicRole : s.blind.panicRole = s.panicRole := rfl
@[simp] theorem State.blind_cfg : s.blind.cfg = s.cfg := rfl
@[simp] theorem State.blind_rstIn : s.blind.rstIn = s.rstIn := rfl
@[simp] theorem State.blind_evIn : s.blind.evIn = s.evIn := rfl
@[simp] theorem State.blind_rndIn : s.blind.rndIn = s.rndIn := rfl
@[simp] theorem State.blind_next : s.blind.next = s.next := next_congr rfl rfl rfl rfl rfl rfl

end

/-! ### Operations that do not look at the board -/

/-- `f` computes nothing but pins and register from the pins and the register it is given. -/
def IgnoresBoard (f : State → State) : Prop := ∀ s, (f s.blind).blind = (f s).blind

theorem IgnoresBoard.comp {f g : State → State} (hf : IgnoresBoard f) (hg : IgnoresBoard g) :
    IgnoresBoard (fun s => f (g s)) := fun s =>
  calc (f (g s.blind)).blind = (f (g s.blind).blind).blind := (hf _).symm
    _ = (f (g s).blind).blind := by rw [hg s]
    _ = (f (g s)).blind := hf _

/-- Two choices on one condition look alike under `F` if their branches do. -/
theorem map_ite_congr {α β : Type} (F : α → β) {c d : Prop} [Decidable c] [Decidable d] {x y u v : α} (h : c ↔ d)
    (hx : F x = F u) (hy : F y = F v) : F (if c then x else y) = F (if d then u else v) := by
  rw [apply_ite F, apply_ite F]
  exact if_congr h hx hy

/-- A choice that does not look at the board, between two operations that do not. -/
theorem IgnoresBoard.ite {c : State → Prop} [DecidablePred c] {f g : State → State} (hc : ∀ s, c s.blind ↔ c s)
    (hf : IgnoresBoard f) (hg : IgnoresBoard g) : IgnoresBoard (fun s => if c s then f s else g s) := fun s =>
  map_ite_congr State.blind (hc s) (hf s) (hg s)

/-! ### Walking the position -/

theorem leaveList_ignores : IgnoresBoard State.leaveList := fun _ => rfl

theorem enterFrom_ignores (s : State) (l : ListName) (ws : List OpWord) (n : Nat) :
    (s.blind.enterFrom l ws n).blind = (s.enterFrom l ws n).blind := by
  induction ws generalizing n with
  | nil => rfl
  | cons w ws ih =>
    cases he : wordEntry s.cfg w with
    | some e => simp only [State.enterFrom, State.blind_cfg, he]; rfl
    | none => simp only [State.enterFrom, State.blind_cfg, he, ih]

theorem startList_ignores (l : ListName) : IgnoresBoard (State.startList · l) := fun s => enterFrom_ignores s l _ 0

theorem endWord_ignores : IgnoresBoard State.endWord := fun s => enterFrom_ignores s _ _ _

theorem advanceAction_ignores (a : Action) : IgnoresBoard (State.advanceAction a) :=
  .ite (fun _ => Iff.rfl) (fun _ => rfl) endWord_ignores

theorem advanceStep_ignores (len : Nat) {after : State → State} (h : IgnoresBoard after) :
    IgnoresBoard (State.advanceStep len after) := by
  refine .ite (fun _ => Iff.rfl) (fun _ => rfl) fun s => ?_
  rw [State.blind_pos]
  cases s.pos.sph with
  | act | latch => rfl
  | delay => exact h s

theorem nextK_ignores (bound : Nat) {done : State → State} (h : IgnoresBoard done) :
    IgnoresBoard (State.nextK bound done) :=
  .ite (fun _ => Iff.rfl) (fun _ => rfl) h

theorem enterFlush_ignores : IgnoresBoard State.enterFlush :=
  .ite (fun _ => Iff.rfl) endWord_ignores fun _ => rfl

theorem nextSeg_ignores : IgnoresBoard State.nextSeg := by
  intro s
  unfold State.nextSeg
  rw [State.blind_pos]
  cases s.pos.seg with
  | on1 | off => rfl
  | on2 => exact map_ite_congr State.blind Iff.rfl rfl (enterFlush_ignores s)

/-! ### One micro-operation -/

/-- A write changes the board by the board it finds, and nothing else by it (40_pulsedriver.md R90). -/
theorem pinWrite_ignores (r : Role) (l : Level) : IgnoresBoard (State.pinWrite · r l) := fun _ => rfl

theorem beginWait_ignores (d : Nat) : IgnoresBoard (State.beginWait · d) := fun _ => rfl

theorem tick_ignores : IgnoresBoard State.tick := fun _ => rfl

theorem runMicro_ignores {adv : State → State} (h : IgnoresBoard adv) (m : Option Micro) :
    IgnoresBoard (State.runMicro · adv m) := by
  rcases m with _ | ⟨r, l⟩ | d
  · exact .ite (fun _ => Iff.rfl) h tick_ignores
  · exact .ite (fun _ => Iff.rfl) (h.comp (pinWrite_ignores r l)) tick_ignores
  · exact .ite (fun _ => Iff.rfl)
      (.ite (fun _ => Iff.rfl) (h.comp (beginWait_ignores d)) (beginWait_ignores d))
      (.ite (fun _ => Iff.rfl) (h.comp tick_ignores) tick_ignores)

theorem actionStep_ignores (a : Action) : IgnoresBoard (State.actionStep · a) := fun s =>
  runMicro_ignores (advanceAction_ignores a) _ s

theorem genStep_ignores (s : State) (v : Level) (t : Nat) {after : State → State} (h : IgnoresBoard after) :
    (s.blind.genStep v t after).blind = (s.genStep v t after).blind :=
  runMicro_ignores (advanceStep_ignores _ h) _ s

/-! ### Operation words -/

theorem sweepStep_ignores (t : Nat) : IgnoresBoard (State.sweepStep · t) := fun s =>
  genStep_ignores s _ t (nextK_ignores _ endWord_ignores)

theorem alternateStep_ignores (t : Nat) : IgnoresBoard (State.alternateStep · t) := fun s =>
  genStep_ignores s _ t (nextK_ignores _ endWord_ignores)

/-- The value of a Draw comes from the port or is free (42_patternengine.md R136). -/
theorem afterDraw_blind (s : State) : s.blind.afterDraw = s.afterDraw.blind := by
  unfold State.afterDraw
  rw [State.blind_rndIn]
  cases s.rndIn <;> rfl

theorem drawOnStep_ignores : IgnoresBoard State.drawOnStep := by
  refine .ite (fun _ => Iff.rfl) (fun s => ?_) tick_ignores
  rw [afterDraw_blind]
  rfl

theorem drawOffStep_ignores : IgnoresBoard State.drawOffStep := by
  refine .ite (fun _ => Iff.rfl) (fun s => ?_) tick_ignores
  rw [afterDraw_blind]
  rfl

theorem bodyStep_ignores (t : Nat) : IgnoresBoard (State.bodyStep · t) := fun s =>
  genStep_ignores s _ t (nextK_ignores _ nextSeg_ignores)

theorem flushStep_ignores (t : Nat) : IgnoresBoard (State.flushStep · t) := fun s =>
  genStep_ignores s _ t (nextK_ignores _ endWord_ignores)

theorem randomRunStep_ignores (t : Nat) : IgnoresBoard (State.randomRunStep · t) := by
  intro s
  simp only [State.randomRunStep, State.blind_pos]
  cases s.pos.gph with
  | drawOn => exact drawOnStep_ignores s
  | drawOff => exact drawOffStep_ignores s
  | body => exact bodyStep_ignores t s
  | flush => exact flushStep_ignores t s

/-! ### Events -/

theorem emit_ignores (e : TraceEvent) : IgnoresBoard (State.emit · e) := fun _ => rfl

theorem select_ignores (e : Event) (mode : Fsm) (l1 l2 : ListName) : IgnoresBoard (State.select · e mode l1 l2) := by
  have listed (l : ListName) := (startList_ignores l).comp (emit_ignores (.event e))
  refine .ite (fun _ => Iff.rfl) (fun s => ?_) fun _ => rfl
  rw [State.blind_fsm]
  cases s.fsm with
  | topMenu =>
    exact map_ite_congr State.blind Iff.rfl (startList_ignores .script { s.emit (.event e) with fsm := .auto }) rfl
  | manual => exact listed l1 s
  | immediate | boot | auto | exit | panic => exact listed l2 s

theorem cancel_ignores : IgnoresBoard State.cancel := by
  refine .ite (fun _ => Iff.rfl) (fun s => ?_) fun _ => rfl
  rw [State.blind_fsm]
  cases s.fsm <;> rfl

/-! ### Boot and the last micro-event -/

theorem initDone_ignores (r : Role) : IgnoresBoard (State.initDone · r) :=
  .ite (fun _ => Iff.rfl) (fun _ => rfl) fun _ => rfl

theorem bootInit_ignores (r : Role) : IgnoresBoard (State.bootInit · r) :=
  .ite (fun _ => Iff.rfl) ((initDone_ignores r).comp (emit_ignores _)) fun _ => rfl

theorem emitLast_ignores : IgnoresBoard State.emitLast := by
  intro s
  unfold State.emitLast
  rw [State.blind_fsm, State.blind_panicRole]
  cases s.fsm with
  | panic => cases s.panicRole <;> rfl
  | boot | topMenu | manual | auto | immediate | exit => rfl

/-! ### The step -/

/-- The outcome of an operation that does not look at the board. -/
theorem IgnoresBoard.outcome {f : State → State} (h : IgnoresBoard f) (s : State) :
    blindOutcome (.next (f s.blind)) = blindOutcome (.next (f s)) := congrArg Host.Outcome.next (h s)

theorem exec_blind (i : Instr) (s : State) : blindOutcome (exec i s.blind) = blindOutcome (exec i s) := by
  cases i with
  | clearRegister => exact (actionStep_ignores .clearRegister).outcome s
  | clearRegisterInverted => exact (actionStep_ignores .clearRegisterInverted).outcome s
  | enableOutputInverted => exact (actionStep_ignores .enableOutputInverted).outcome s
  | shiftZero => exact (actionStep_ignores .shiftZero).outcome s
  | shiftOne => exact (actionStep_ignores .shiftOne).outcome s
  | latch => exact (actionStep_ignores .latch).outcome s
  | sweep t => exact (sweepStep_ignores t).outcome s
  | alternate t => exact (alternateStep_ignores t).outcome s
  | randomRun t => exact (randomRunStep_ignores t).outcome s
  | left => exact (select_ignores .left .manual .manL .immL).outcome s
  | center => exact (select_ignores .center .auto .manC .immC).outcome s
  | right => exact (select_ignores .right .immediate .manR .immR).outcome s
  | back => exact cancel_ignores.outcome s

theorem runWord_blind (w : OpWord) (s : State) : blindOutcome (runWord w s.blind) = blindOutcome (runWord w s) := by
  unfold runWord
  cases decodeWord w with
  | ok i => exact exec_blind i s
  | error e => rfl

theorem takeEvent_blind (s : State) : blindOutcome (takeEvent s.blind) = blindOutcome (takeEvent s) := by
  unfold takeEvent
  rw [State.blind_evIn]
  cases s.evIn with
  | nil => rfl
  | cons c cs => exact exec_blind (decodeEvent c) { s with evIn := cs }

theorem seqStep_blind (s : State) : blindOutcome (seqStep s.blind) = blindOutcome (seqStep s) := by
  unfold seqStep
  rw [State.blind_next]
  cases s.next with
  | boot r => exact map_ite_congr blindOutcome Iff.rfl ((bootInit_ignores r).outcome s) rfl
  | word w => exact runWord_blind w s
  | takeEvent => exact takeEvent_blind s
  | listOver => exact leaveList_ignores.outcome s
  | last => exact emitLast_ignores.outcome s
  | stopped => exact map_ite_congr blindOutcome Iff.rfl rfl rfl

/-- Erasing pins and register before a step changes nothing else in what the step answers. -/
theorem step_blind (s : State) : blindOutcome (step s.blind) = blindOutcome (step s) := by
  unfold step
  rw [State.blind_rstIn]
  cases s.rstIn with
  | nil => exact seqStep_blind s
  | cons l rs =>
    cases l with
    | true => rfl
    | false => exact seqStep_blind { s with rstIn := rs }

/-- Settles O51: each of the two states steps as its erased form does, and the erased forms are one state. -/
theorem openLoop : Obligations.OpenLoop := by
  intro s1 s2 h
  calc blindOutcome (step s1) = blindOutcome (step s1.blind) := (step_blind s1).symm
    _ = blindOutcome (step s2.blind) := by rw [h]
    _ = blindOutcome (step s2) := step_blind s2

end Sys2Proof.Machine
end

section
/-! The encoding both ways (30_encoding.md R71 to R76): every word is the word of one Action, the word of a generator with
its operand, or reserved. -/

namespace Sys2Proof

/-! ### A generator's word -/

/-- The class and the operand of a word make the word again (30_encoding.md R71). -/
theorem genWord_class_operand (w : OpWord) : genWord (w.toNat / 4096) (w.toNat % 4096) = w := by
  have := w.isLt
  refine BitVec.eq_of_toNat_eq ?_
  rw [genWord_toNat _ _ (by omega) (by omega)]
  omega

/-- A word is that of class `cls` with the operand `t` exactly if these are its two fields (30_encoding.md R71, R72). -/
theorem genWord_eq_iff {cls t : Nat} {w : OpWord} (hc : cls < 16) :
    t < 4096 ∧ genWord cls t = w ↔ w.toNat / 4096 = cls ∧ t = w.toNat % 4096 := by
  constructor
  · rintro ⟨ht, rfl⟩
    rw [genWord_toNat cls t hc ht]
    omega
  · rintro ⟨rfl, rfl⟩
    exact ⟨Nat.mod_lt _ (by decide), genWord_class_operand w⟩

/-! ### An Action's word -/

theorem Action.word_toNat_lt (a : Action) : a.word.toNat < 6 := by cases a <;> decide

/-- Each Action code from 0 to 5 is the word of an Action (30_encoding.md R73). -/
theorem exists_actionWord_of_lt {n : Nat} (h : n < 6) : ∃ a : Action, a.word.toNat = n := by
  match n, h with
  | 0, _ => exact ⟨.clearRegister, rfl⟩
  | 1, _ => exact ⟨.clearRegisterInverted, rfl⟩
  | 2, _ => exact ⟨.enableOutputInverted, rfl⟩
  | 3, _ => exact ⟨.shiftZero, rfl⟩
  | 4, _ => exact ⟨.shiftOne, rfl⟩
  | 5, _ => exact ⟨.latch, rfl⟩

@[simp] theorem encode_actionInstr (a : Action) : encode a.instr = .op a.word := by cases a <;> rfl

@[simp] theorem wellFormed_actionInstr (a : Action) : a.instr.wellFormed = true := by cases a <;> rfl

@[simp] theorem wordOk_actionWord (a : Action) : wordOk a.word = true := by simp [wordOk]

/-! ### What a word can be -/

theorem decodeWord_of_class_one {w : OpWord} (h : w.toNat / 4096 = 1) :
    decodeWord w = .ok (.sweep (w.toNat % 4096)) := by
  simp only [decodeWord, opClass_eq, h, opT_eq]

theorem decodeWord_of_class_two {w : OpWord} (h : w.toNat / 4096 = 2) :
    decodeWord w = .ok (.alternate (w.toNat % 4096)) := by
  simp only [decodeWord, opClass_eq, h, opT_eq]

theorem decodeWord_of_class_three {w : OpWord} (h : w.toNat / 4096 = 3) :
    decodeWord w = .ok (.randomRun (w.toNat % 4096)) := by
  simp only [decodeWord, opClass_eq, h, opT_eq]

/-- The reserved words of 30_encoding.md R74, by the fields of the word. -/
def ReservedWord (w : OpWord) : Prop :=
  4 ≤ w.toNat / 4096 ∨ (w.toNat / 4096 = 0 ∧ (6 ≤ w.toNat % 8 ∨ w.toNat / 8 % 512 ≠ 0))

/-- What a word can be, and what it then decodes to (30_encoding.md R71, R73, R74). -/
inductive WordKind (w : OpWord) : Prop where
  | action (a : Action) (h : w = a.word) (e : decodeWord w = .ok a.instr)
  | sweep (h : w.toNat / 4096 = 1) (e : decodeWord w = .ok (.sweep (w.toNat % 4096)))
  | alternate (h : w.toNat / 4096 = 2) (e : decodeWord w = .ok (.alternate (w.toNat % 4096)))
  | randomRun (h : w.toNat / 4096 = 3) (e : decodeWord w = .ok (.randomRun (w.toNat % 4096)))
  | reserved (h : ReservedWord w) (r : Reject) (e : decodeWord w = .error r)

theorem wordKind_of_class_zero {w : OpWord} (hc : w.toNat / 4096 = 0) : WordKind w := by
  by_cases hz : w.toNat / 8 % 512 = 0
  · by_cases ha : w.toNat % 8 < 6
    · obtain ⟨a, hw⟩ := exists_actionWord_of_lt ha
      obtain rfl : w = a.word := BitVec.eq_of_toNat_eq (by omega)
      exact .action a rfl (decodeWord_actionWord a)
    · have hr : decodeAction (w.toNat % 8) = none := decodeAction_reserved (Nat.le_of_not_lt ha)
      refine .reserved (.inr ⟨hc, .inl (Nat.le_of_not_lt ha)⟩) .reservedAction ?_
      simp [decodeWord, opClass_eq, opZero_eq, opAct_eq, hc, hz, hr]
  · refine .reserved (.inr ⟨hc, .inr hz⟩) .nonZeroField ?_
    simp [decodeWord, opClass_eq, opZero_eq, hc, hz]

theorem wordKind (w : OpWord) : WordKind w := by
  match hc : w.toNat / 4096 with
  | 0 => exact wordKind_of_class_zero hc
  | 1 => exact .sweep hc (decodeWord_of_class_one hc)
  | 2 => exact .alternate hc (decodeWord_of_class_two hc)
  | 3 => exact .randomRun hc (decodeWord_of_class_three hc)
  | n + 4 =>
    refine .reserved (.inl (by omega)) .reservedClass ?_
    simp only [decodeWord, opClass_eq, hc]

/-! ### Decoding and encoding -/

/-- A generator's word decodes to `gen t` if every word of its class decodes to `gen` of the word's operand. -/
theorem decodeWord_genWord {cls t : Nat} {gen : Nat → Instr} (hcls : cls < 16) (ht : t < 4096)
    (hgen : ∀ w : OpWord, w.toNat / 4096 = cls → decodeWord w = .ok (gen (w.toNat % 4096))) :
    decodeWord (genWord cls t) = .ok (gen t) := by
  obtain ⟨hc, hop⟩ := (genWord_eq_iff hcls).mp ⟨ht, rfl⟩
  rw [hgen _ hc, ← hop]

/-- Settles O2: an Action's word is that Action, a generator's word has the class and the operand it was made of, and the
four event codes are the four events. -/
theorem decodeEncodeAgree : Obligations.DecodeEncodeAgree := by
  intro i hi
  cases i with
  | clearRegister => exact decodeWord_actionWord .clearRegister
  | clearRegisterInverted => exact decodeWord_actionWord .clearRegisterInverted
  | enableOutputInverted => exact decodeWord_actionWord .enableOutputInverted
  | shiftZero => exact decodeWord_actionWord .shiftZero
  | shiftOne => exact decodeWord_actionWord .shiftOne
  | latch => exact decodeWord_actionWord .latch
  | sweep t => exact decodeWord_genWord (by decide) (of_decide_eq_true hi) fun _ => decodeWord_of_class_one
  | alternate t => exact decodeWord_genWord (by decide) (of_decide_eq_true hi) fun _ => decodeWord_of_class_two
  | randomRun t => exact decodeWord_genWord (by decide) (of_decide_eq_true hi) fun _ => decodeWord_of_class_three
  | left | center | right | back => rfl

theorem encode_decodeWord {w : OpWord} {i : Instr} (h : decodeWord w = .ok i) :
    i.wellFormed = true ∧ encode i = .op w := by
  have operand_lt : w.toNat % 4096 < 4096 := Nat.mod_lt _ (by decide)
  have made := genWord_class_operand w
  cases wordKind w with
  | action a hw e =>
    cases h.symm.trans e
    exact ⟨wellFormed_actionInstr a, by rw [encode_actionInstr, hw]⟩
  | sweep hc e | alternate hc e | randomRun hc e =>
    cases h.symm.trans e
    rw [hc] at made
    exact ⟨decide_eq_true operand_lt, congrArg Code.op made⟩
  | reserved _ r e => cases h.symm.trans e

theorem encode_decodeEvent (c : EvCode) : (decodeEvent c).wellFormed = true ∧ encode (decodeEvent c) = .ev c := by
  revert c
  decide

/-- Settles O3: an operation word by its kind, an event code by the table of the four codes. -/
theorem encodeDecodeAgree : Obligations.EncodeDecodeAgree := by
  intro c i h
  cases c with
  | op w => exact encode_decodeWord h
  | ev c =>
    cases h
    exact encode_decodeEvent c

/-- The codes that decode to `i` are the one that encodes it, if it is well formed. -/
theorem decode_eq_ok_iff {c : Code} {i : Instr} : decode c = .ok i ↔ i.wellFormed = true ∧ encode i = c := by
  constructor
  · exact encodeDecodeAgree c i
  · rintro ⟨hi, rfl⟩
    exact decodeEncodeAgree i hi

/-- Settles O1: the Action words are those of `Action.word`; the reserved codes and the events are rows of the tables. -/
theorem tableWordsDecode : Obligations.TableWordsDecode :=
  ⟨decodeWord_actionWord .clearRegister, decodeWord_actionWord .clearRegisterInverted,
    decodeWord_actionWord .enableOutputInverted, decodeWord_actionWord .shiftZero, decodeWord_actionWord .shiftOne,
    decodeWord_actionWord .latch, by decide, by decide, rfl, rfl, rfl, rfl⟩

/-! ### Reserved words -/

theorem wordOk_eq_false_iff {w : OpWord} : wordOk w = false ↔ ReservedWord w := by
  unfold ReservedWord
  cases wordKind w with
  | action a hw e =>
    have := a.word_toNat_lt
    simp only [hw, wordOk_actionWord, Bool.true_eq_false, false_iff]
    omega
  | sweep hc e | alternate hc e | randomRun hc e => simp [wordOk, e, hc]
  | reserved hr r e => exact ⟨fun _ => hr, fun _ => by simp [wordOk, e]⟩

/-- A SCRIPT with a reserved word is ill formed (30_encoding.md R74). -/
theorem wellFormed_eq_false_of_reserved {c : Config} {w : OpWord} (hm : w ∈ c.script) (hw : wordOk w = false) :
    c.wellFormed = false := by
  have hall : c.script.all wordOk = false := List.all_eq_false.mpr ⟨w, hm, by simp [hw]⟩
  simp [Config.wellFormed, hall]

namespace Machine

/-- The first role's init is what comes next after reset (70_reset_and_hazards.md R211). -/
theorem next_resetWith (c : Config) : (State.resetWith c).next = .boot .ser :=
  next_boot_iff.mpr ⟨rfl, nextInit_of_initBefore rfl⟩

/-- The model refuses an ill-formed configuration before the run starts (30_encoding.md R74; log 13). -/
theorem step_resetWith_refused {c : Config} (h : c.wellFormed = false) :
    step (State.resetWith c) = .refused .illFormedConfig := by
  have hcfg : (State.resetWith c).cfg.wellFormed = false := h
  rw [step_of_rstIn_nil rfl, seqStep]
  simp [next_resetWith, hcfg]

/-- No list but SCRIPT can hold a reserved word: the others are made of Action words (43_modecontroller.md R161). -/
theorem listWords_all_wordOk {c : Config} (h : c.script.all wordOk = true) (l : ListName) :
    (listWords c l).all wordOk = true := by
  cases l with
  | script => exact h
  | reset => simp [listWords]
  | none | manL | manC | manR | immL | immC | immR => rfl

/-- Settles O5: the words by their kind, the refusal by the check at boot's first init, the lists by the reference SCRIPT. -/
theorem reservedWordsRefused : Obligations.ReservedWordsRefused :=
  ⟨fun _ => wordOk_eq_false_iff, fun _ _ hm hw => step_resetWith_refused (wellFormed_eq_false_of_reserved hm hw),
    listWords_all_wordOk (by decide)⟩

/-! ### Starting a generator -/

theorem enterFrom_cons_of_wordEntry {s : State} {w : OpWord} {e : Gph × OrUnknown Nat} (he : wordEntry s.cfg w = some e)
    (l : ListName) (ws : List OpWord) (n : Nat) : s.enterFrom l (w :: ws) n =
      { s with pos := { Pos.rest with list := l, widx := n, gph := e.1 }, tCur := e.2 } := by
  simp only [State.enterFrom, he]

/-- A generator with a Step starts with `t_cur` its operand (10_state.md R26). -/
theorem wordEntry_of_generator {c : Config} {w : OpWord} (hs : 0 < c.sweepHalf) (ha : 0 < c.altSteps)
    (h1 : 1 ≤ w.toNat / 4096) (h3 : w.toNat / 4096 ≤ 3) : ∃ g, wordEntry c w = some (g, .is (w.toNat % 4096)) := by
  obtain hc | hc | hc : w.toNat / 4096 = 1 ∨ w.toNat / 4096 = 2 ∨ w.toNat / 4096 = 3 := by omega
  · exact ⟨.body, by simp [wordEntry, decodeWord_of_class_one hc, hs.ne']⟩
  · exact ⟨.body, by simp [wordEntry, decodeWord_of_class_two hc, ha.ne']⟩
  · exact ⟨.drawOn, by simp [wordEntry, decodeWord_of_class_three hc]⟩

/-- Settles O4: the words that decode to a generator are those that encode it, and their fields are its class and operand. -/
theorem generatorOperandIsLowTwelveBits : Obligations.GeneratorOperandIsLowTwelveBits := by
  intro w t
  refine ⟨?sweep, ?alternate, ?randomRun, fun s l ws n hs ha h1 h3 => ?tCur⟩
  case sweep | alternate | randomRun => simp [decode_eq_ok_iff, Instr.wellFormed, encode, genWord_eq_iff]
  case tCur =>
    obtain ⟨g, he⟩ := wordEntry_of_generator hs ha h1 h3
    rw [enterFrom_cons_of_wordEntry he]

end Machine
end Sys2Proof
end

section
/-! The micro-operations of the PulseDriver (40_pulsedriver.md R90 to R94): one step at a micro-operation, a whole Wait,
and a whole part, that is, the list of micro-operations an Action or a part of a Step consists of. -/

namespace Sys2Proof.Machine

/-! ### The micro-events of an Action by index -/

theorem exec_actionInstr (a : Action) (s : State) : exec a.instr s = .next (s.actionStep a) := by cases a <;> rfl

/-- The Action that is `shift_bit(v)` (41_actionset.md R115, R116). -/
def shiftAction (v : Level) : Action := if v then .shiftOne else .shiftZero

theorem instr_shift (v : Level) : (shiftAction v).instr = if v then .shiftOne else .shiftZero := by cases v <;> rfl

theorem actionMicros_shift (c : Config) (v : Level) : actionMicros c (shiftAction v) = shiftBit c.tUnit v := by
  cases v <;> rfl

theorem getElem?_of_drop_eq_cons {α : Type} {l rest : List α} {u : Nat} {x : α} (h : l.drop u = x :: rest) :
    l[u]? = some x := by rw [← List.head?_drop, h]; rfl

theorem length_of_drop_eq_cons {α : Type} {l rest : List α} {u : Nat} {x : α} (h : l.drop u = x :: rest) :
    l.length = u + 1 + rest.length := by
  have hlen := congrArg List.length h
  simp only [List.length_drop, List.length_cons] at hlen
  omega

section
variable {s : State} {a : Action} {u : Nat} {ms : List Micro} (ht : s.timer = 0) (hu : s.pos.u = u)
include ht hu

/-- A write that is not the last micro-event of its Action. -/
theorem exec_write {r : Role} {l : Level} {m : Micro} (hm : (actionMicros s.cfg a).drop u = .write r l :: m :: ms) :
    exec a.instr s = .next ((s.pinWrite r l).setU (u + 1)) := by
  have hlt : u + 1 < (actionMicros s.cfg a).length := by simp [length_of_drop_eq_cons hm]
  rw [exec_actionInstr, State.actionStep, hu, getElem?_of_drop_eq_cons hm, runMicro_write _ _ _ _ ht,
    State.advanceAction, State.pinWrite_pos, hu]
  exact congrArg _ (if_pos hlt)

/-- A Wait of an Action only starts the timer, the position staying (40_pulsedriver.md R91). -/
theorem exec_beginWait {d : Nat} (hd : 0 < d) (hm : (actionMicros s.cfg a).drop u = .wait d :: ms) :
    exec a.instr s = .next (s.beginWait d) := by
  rw [exec_actionInstr, State.actionStep, hu, getElem?_of_drop_eq_cons hm, runMicro_wait_begin _ _ _ ht hd.ne']

end

/-- Settles O26, each index from the write or the Wait that stands there in `shiftBit`. -/
theorem shiftBitMicroEvents : Obligations.ShiftBitMicroEvents := by
  intro s v ht hd
  rw [← instr_shift v]
  have part (u : Nat) : (actionMicros s.cfg (shiftAction v)).drop u = (shiftBit s.cfg.tUnit v).drop u := by
    rw [actionMicros_shift]
  refine ⟨fun hu => exec_write ht hu (part 0), fun hu => exec_write ht hu (part 2),
    fun hu => exec_write ht hu (part 4), fun hu => exec_write ht hu (part 6), ?_⟩
  rintro (hu | hu | hu | hu)
  · exact exec_beginWait ht hu hd (part 1)
  · exact exec_beginWait ht hu hd (part 3)
  · exact exec_beginWait ht hu hd (part 5)
  · exact exec_beginWait ht hu hd (part 7)

/-- Settles O27, each index from the write or the Wait that stands there in `pulse`. -/
theorem pulseMicroEvents : Obligations.PulseMicroEvents := by
  intro s ht hd
  refine ⟨fun hu => ⟨?_, ?_⟩, fun hu => ⟨?_, ?_⟩, ?_⟩
  · exact exec_write (a := .clearRegister) ht hu rfl
  · exact exec_write (a := .latch) ht hu rfl
  · exact exec_write (a := .clearRegister) ht hu rfl
  · exact exec_write (a := .latch) ht hu rfl
  · rintro (hu | hu) <;>
      exact ⟨exec_beginWait (a := .clearRegister) ht hu hd rfl, exec_beginWait (a := .latch) ht hu hd rfl⟩

/-! ### What a micro-operation does once it is complete -/

/-- The micro-event a micro-operation emits (00_scope.md R10). -/
def Micro.event : Micro → TraceEvent
  | .write r l => .write r l
  | .wait d => .wait d

/-- What a micro-operation does to the pins and the register (40_pulsedriver.md R90, R91). -/
def Board.afterMicro (b : Board) : Micro → Board
  | .write r l => (b.1.set r (.is l), b.2.react b.1 r l)
  | .wait _ => b

/-- The state with the micro-operations `ms` completed, but for the position. -/
def State.perform (s : State) (ms : List Micro) : State :=
  s.performed (ms.foldl Board.afterMicro s.board) (ms.map Micro.event) (waitSum (ms.map Micro.event))

/-- How many steps the micro-operations `ms` take: their micro-events and their milliseconds (log 1). -/
def stepsOf (ms : List Micro) : Nat := ms.length + waitSum (ms.map Micro.event)

/-- A completed Wait, the timer run down. -/
theorem perform_wait {s : State} (ht : s.timer = 0) (d : Nat) :
    s.perform [.wait d] = { s.beginWait d with timer := 0 } := by
  rw [← ht]; rfl

theorem perform_append (s : State) (ms ns : List Micro) : s.perform (ms ++ ns) = (s.perform ms).perform ns := by
  simp [State.perform, State.performed, State.board, Nat.add_assoc]

theorem stepsOf_cons (m : Micro) (ms : List Micro) : stepsOf (m :: ms) = stepsOf [m] + stepsOf ms := by
  have h := waitSum_append [m.event] (ms.map Micro.event)
  simp only [List.singleton_append] at h
  simp only [stepsOf, List.map_cons, List.map_nil, List.length_cons, List.length_nil, h]
  omega

/-! ### Running a part -/

/-- What follows a completed micro-operation of a part of `len` ones: the next one of it, else `fin`
(10_state.md R31). -/
def State.advanceIn (len : Nat) (fin : State → State) (s : State) : State :=
  if s.pos.u + 1 < len then s.setU (s.pos.u + 1) else fin s

/-- `b` is `s` but for what micro-operations write and for the index of the micro-event inside the part. -/
def SamePart (s b : State) : Prop :=
  ∃ ps x n tr el u, b = { s with
    pins := ps, ext := x, timer := n, trace := tr, elapsed := el, pos := { s.pos with u := u } }

/-- While the block is in the part of `s`, each of its steps is one at the micro-operation of `ms` at the index, and
`fin` follows the last of them. -/
def State.InPart (s : State) (ms : List Micro) (fin : State → State) : Prop :=
  ∀ b, SamePart s b → step b = .next (b.runMicro (State.advanceIn ms.length fin) ms[b.pos.u]?)

theorem SamePart.refl (s : State) : SamePart s s := ⟨_, _, _, _, _, _, rfl⟩

theorem SamePart.trans {s b c : State} (h : SamePart s b) (g : SamePart b c) : SamePart s c := by
  obtain ⟨_, _, _, _, _, _, rfl⟩ := h
  obtain ⟨_, _, _, _, _, _, rfl⟩ := g
  exact ⟨_, _, _, _, _, _, rfl⟩

/-- What decides on a word and its micro-operations is the same all through a part. -/
theorem SamePart.frame {s b : State} (h : SamePart s b) : b.cfg = s.cfg ∧ b.rstIn = s.rstIn ∧ b.next = s.next := by
  obtain ⟨_, _, _, _, _, _, rfl⟩ := h
  exact ⟨rfl, rfl, next_congr rfl rfl rfl rfl rfl rfl⟩

theorem samePart_perform_setU (s : State) (ms : List Micro) (u : Nat) : SamePart s ((s.perform ms).setU u) :=
  ⟨_, _, _, _, _, _, rfl⟩

section
variable {s : State} {ms : List Micro} {fin : State → State} (h : s.InPart ms fin)
include h

theorem State.InPart.of_samePart {b : State} (g : SamePart s b) : b.InPart ms fin := fun c hc => h c (g.trans hc)

theorem State.InPart.step {b : State} {m : Micro} (g : SamePart s b) (hm : ms[b.pos.u]? = some m) :
    step b = .next (b.runMicro (State.advanceIn ms.length fin) (some m)) := by rw [h b g, hm]

variable (ht : s.timer = 0)
include ht

/-- A Wait in progress: after its start and `j` milliseconds, `d - j` are left (10_state.md R27). -/
theorem runs_wait_counting {d : Nat} (hm : ms[s.pos.u]? = some (.wait d)) (j : Nat) (hj : j < d) :
    runs (j + 1) s = .next { s.beginWait d with timer := d - j } := by
  induction j with
  | zero => exact runs_one ((h.step (.refl s) hm).trans (congrArg _ (runMicro_wait_begin _ _ _ ht (by omega))))
  | succ j ih =>
    have hstep := h.step (b := { s.beginWait d with timer := d - j }) ⟨_, _, _, _, _, _, rfl⟩ hm
    rw [runMicro_wait_more _ _ _ (show 1 < d - j by omega)] at hstep
    exact (runs_add (j + 1) 1 (ih (by omega))).trans (runs_one hstep)

/-- A whole Wait, its start and its milliseconds (40_pulsedriver.md R91). -/
theorem runs_wait {d : Nat} (hm : ms[s.pos.u]? = some (.wait d)) :
    runs (d + 1) s = .next ((s.perform [.wait d]).advanceIn ms.length fin) := by
  rw [perform_wait ht]
  cases d with
  | zero => exact runs_one ((h.step (.refl s) hm).trans (congrArg _ (runMicro_wait_zero _ _ ht)))
  | succ d =>
    have hleft : d + 1 - d = 1 := by omega
    have hcount := runs_wait_counting h ht hm d (by omega)
    have hstep := h.step (b := { s.beginWait (d + 1) with timer := 1 }) ⟨_, _, _, _, _, _, rfl⟩ hm
    rw [runMicro_wait_last _ _ _ rfl] at hstep
    rw [hleft] at hcount
    exact (runs_add (d + 1) 1 hcount).trans (runs_one hstep)

/-- A whole micro-operation. -/
theorem runs_micro {m : Micro} (hm : ms[s.pos.u]? = some m) :
    runs (stepsOf [m]) s = .next ((s.perform [m]).advanceIn ms.length fin) := by
  cases m with
  | write r l => exact runs_one ((h.step (.refl s) hm).trans (congrArg _ (runMicro_write _ _ _ _ ht)))
  | wait d =>
    rw [show stepsOf [.wait d] = d + 1 from Nat.add_comm 1 d]
    exact runs_wait h ht hm

end

/-- What is left of a part, run to its end: all its micro-operations are performed in order, and `fin` follows. -/
theorem runs_part {s : State} {ms rest : List Micro} {fin : State → State} {m : Micro} (h : s.InPart ms fin)
    (ht : s.timer = 0) (hd : ms.drop s.pos.u = m :: rest) :
    runs (stepsOf (m :: rest)) s = .next (fin ((s.perform (m :: rest)).setU (ms.length - 1))) := by
  induction rest generalizing s m with
  | nil =>
    have hlen := length_of_drop_eq_cons hd
    rw [runs_micro h ht (getElem?_of_drop_eq_cons hd), State.advanceIn, hlen]
    exact congrArg _ (if_neg (lt_irrefl _))
  | cons n rest ih =>
    have hlt : s.pos.u + 1 < ms.length := by simp [length_of_drop_eq_cons hd]
    have hd' : ms.drop (s.pos.u + 1) = n :: rest := by rw [← List.tail_drop, hd]; rfl
    have hnext := (runs_micro h ht (getElem?_of_drop_eq_cons hd)).trans (congrArg _ (if_pos hlt))
    have h' := h.of_samePart (samePart_perform_setU s [m] (s.pos.u + 1))
    rw [stepsOf_cons, runs_add _ _ hnext, show m :: n :: rest = [m] ++ (n :: rest) from rfl, perform_append]
    exact ih h' ht hd'

/-! ### Whole Action words -/

/-- An Action word is one part, at whose end the word is done (10_state.md R31). -/
theorem advanceAction_eq (c : Config) (a : Action) :
    State.advanceAction a = State.advanceIn (actionMicros c a).length State.endWord := by
  cases a <;> rfl

theorem inPart_action {s : State} {a : Action} (hr : s.rstIn = []) (hc : s.current = some a.instr) :
    s.InPart (actionMicros s.cfg a) State.endWord := by
  obtain ⟨w, hw, hd⟩ := current_eq_some_iff.mp hc
  intro b hb
  obtain ⟨hcfg, hrst, hnext⟩ := hb.frame
  rw [step_word (hrst.trans hr) (hnext.trans hw) hd, exec_actionInstr, State.actionStep, advanceAction_eq s.cfg, hcfg]

/-- Settles O29: the Wait is a micro-operation of the part the Action is. -/
theorem waitCountsDown : Obligations.WaitCountsDown := by
  intro s a d hr hc ht hm
  have hp := inPart_action hr hc
  refine ⟨runs_wait_counting hp ht hm, ?_⟩
  rw [runs_wait hp ht hm, advanceAction_eq s.cfg]
  rfl

/-- Where the next word starts does not depend on the place inside the word that is done. -/
theorem endWord_setU (s : State) (u : Nat) : (s.setU u).endWord = s.endWord := by
  have enter (ws : List OpWord) (n : Nat) : (s.setU u).enterFrom s.pos.list ws n = s.enterFrom s.pos.list ws n := by
    induction ws generalizing n with
    | nil => rfl
    | cons w ws ih =>
      simp only [State.enterFrom, State.setU_cfg, ih]
      rfl
  exact enter ..

/-- A whole Action word from its start: all its micro-operations in order, then the word is done. -/
theorem runs_action {s : State} {a : Action} (h : s.AtStart a.instr) :
    runs (stepsOf (actionMicros s.cfg a)) s = .next (s.perform (actionMicros s.cfg a)).endWord := by
  obtain ⟨hr, ht, w, e, hw, hdec, -, hpos, -⟩ := h
  have hu : s.pos.u = 0 := by rw [hpos]; rfl
  have hp := inPart_action hr (current_eq_some_iff.mpr ⟨w, hw, hdec⟩)
  obtain ⟨m, rest, hm⟩ := List.exists_cons_of_length_pos (actionMicros_length_pos s.cfg a)
  have hrun := runs_part hp ht (m := m) (rest := rest) (by rw [hu, List.drop_zero, hm])
  rwa [endWord_setU, ← hm] at hrun

/-! ### A whole ShiftZero or ShiftOne -/

theorem waitSum_shiftTrace (c : Config) (v : Level) : waitSum (shiftTrace c v) = 4 * c.tUnit := by
  simp only [shiftTrace, waitSum]
  omega

/-- `shift_bit(v)` does to the board what `Board.afterShift` says: of its writes, only SRCLK high moves the register. -/
theorem perform_shiftBit (s : State) (v : Level) :
    s.perform (shiftBit s.cfg.tUnit v) = s.performed (s.board.afterShift v) (shiftTrace s.cfg v) (4 * s.cfg.tUnit) := by
  rw [← waitSum_shiftTrace s.cfg v]
  rfl

theorem stepsOf_shiftBit (c : Config) (v : Level) : stepsOf (shiftBit c.tUnit v) = 8 + 4 * c.tUnit := by
  rw [← waitSum_shiftTrace c v]
  rfl

/-- The storage stage does not react to SRCLK. -/
theorem ExtReg.react_srclk_st (x : ExtReg) (p : PerRole (OrUnknown Level)) : (x.react p .srclk true).st = x.st := by
  cases h : p.srclk with
  | unknown => rw [x.react_srclk_of_unknown h]
  | is l =>
    cases l with
    | false => rw [x.react_srclk_of_low h]
    | true => rw [x.react_srclk_of_high h]

/-- Settles O31: the register is the one `Board.afterShift` gives, and by O59 its edge decides the clauses. -/
theorem shiftRuns : Obligations.ShiftRuns := by
  intro s v h
  rw [← instr_shift] at h
  have hrun := runs_action h
  rw [actionMicros_shift, stepsOf_shiftBit, perform_shiftBit] at hrun
  obtain ⟨-, high, lowHigh, lowLow, lowUnknown, unknownHigh, unknownLow, unknownUnknown, -⟩ :=
    externalRegisterReacts s.ext { s.pins with ser := .is v } true
  exact ⟨_, hrun, ExtReg.react_srclk_st _ _, fun hk hc => congrArg ExtReg.sh (lowHigh hk hc),
    fun hk hc => congrArg ExtReg.sh (lowLow hk hc), fun hk hc => congrArg ExtReg.sh (lowUnknown hk hc),
    fun hk => congrArg ExtReg.sh (high hk), fun hk hc => congrArg ExtReg.sh (unknownHigh hk hc),
    fun hk hc => congrArg ExtReg.sh (unknownLow hk hc), fun hk hc => congrArg ExtReg.sh (unknownUnknown hk hc)⟩

end Sys2Proof.Machine
end

section
/-! The Actions (41_actionset.md R111 to R117): which pins each of them writes, the static writes, the two whole pulses,
and what a step of an Action leaves unchanged. -/

namespace Sys2Proof.Machine

/-! ### The static writes -/

/-- A write that is the last micro-event of its Action: the word is done (10_state.md R31). -/
theorem exec_lastWrite {s : State} {a : Action} {u : Nat} {r : Role} {l : Level} (ht : s.timer = 0) (hu : s.pos.u = u)
    (hm : (actionMicros s.cfg a).drop u = [.write r l]) : exec a.instr s = .next (s.pinWrite r l).endWord := by
  have hlen : (actionMicros s.cfg a).length = u + 1 := length_of_drop_eq_cons hm
  rw [exec_actionInstr, State.actionStep, hu, getElem?_of_drop_eq_cons hm, runMicro_write _ _ _ _ ht,
    State.advanceAction, State.pinWrite_pos, hu]
  exact congrArg _ (if_neg hlen.not_gt)

/-- Settles O28: each Action is one write, and the register does not react to it. -/
theorem staticWriteActions : Obligations.StaticWriteActions := fun _ ht hu =>
  ⟨exec_lastWrite (a := .clearRegisterInverted) ht hu rfl, exec_lastWrite (a := .enableOutputInverted) ht hu rfl⟩

/-! ### The whole pulses -/

theorem waitSum_clearTrace (c : Config) : waitSum (clearTrace c) = 2 * c.tHold := by
  simp only [clearTrace, waitSum]
  omega

theorem waitSum_latchTrace (c : Config) : waitSum (latchTrace c) = 2 * c.tHold := by
  simp only [latchTrace, waitSum]
  omega

theorem stepsOf_clearRegister (c : Config) : stepsOf (actionMicros c .clearRegister) = 4 + 2 * c.tHold := by
  rw [← waitSum_clearTrace c]
  rfl

theorem stepsOf_latch (c : Config) : stepsOf (actionMicros c .latch) = 4 + 2 * c.tHold := by
  rw [← waitSum_latchTrace c]
  rfl

/-- `ClearRegister` clears the shift stage at its low write; to the high one the register does not react. -/
theorem perform_clearRegister (s : State) : s.perform (actionMicros s.cfg .clearRegister) = s.performed
    ({ s.pins with srclr := .is true }, { s.ext with sh := Stage.zero s.ext.sh.length })
    (clearTrace s.cfg) (2 * s.cfg.tHold) := by
  rw [← waitSum_clearTrace s.cfg]
  rfl

/-- `Latch` does to the board what `Board.afterLatch` says: only its high write moves the register. -/
theorem perform_latch (s : State) : s.perform (actionMicros s.cfg .latch) =
    s.performed s.board.afterLatch (latchTrace s.cfg) (2 * s.cfg.tHold) := by
  rw [← waitSum_latchTrace s.cfg]
  rfl

/-- Settles O30, from the four micro-operations of the pulse. -/
theorem clearRegisterRuns : Obligations.ClearRegisterRuns := by
  intro s h
  have hrun := runs_action (a := .clearRegister) h
  rwa [stepsOf_clearRegister, perform_clearRegister] at hrun

/-- The shift stage reacts neither to RCLK, SER and OE nor to a write high of SRCLR. -/
theorem ExtReg.react_sh_of_ne (x : ExtReg) (p : PerRole (OrUnknown Level)) {r : Role} {l : Level} (hk : r ≠ .srclk)
    (hc : r = .srclr → l = true) : (x.react p r l).sh = x.sh := by
  unfold ExtReg.react
  split
  · simp at hc
  · exact absurd rfl hk
  · split <;> rfl
  · rfl

/-- The storage stage reacts to RCLK only. -/
theorem ExtReg.react_st_of_ne (x : ExtReg) (p : PerRole (OrUnknown Level)) {r : Role} {l : Level} (hr : r ≠ .rclk) :
    (x.react p r l).st = x.st := by
  unfold ExtReg.react
  split
  · rfl
  · split <;> rfl
  · exact absurd rfl hr
  · rfl

/-- Settles O32: the register is the one `Board.afterLatch` gives, and the edge of RCLK decides the clauses. -/
theorem latchRuns : Obligations.LatchRuns := by
  intro s h
  have hrun := runs_action (a := .latch) h
  rw [stepsOf_latch, perform_latch] at hrun
  exact ⟨_, hrun, s.ext.react_sh_of_ne s.pins (by decide) (by decide),
    fun hk => congrArg ExtReg.st (s.ext.react_rclk_of_low hk),
    fun hk => congrArg ExtReg.st (s.ext.react_rclk_of_high hk),
    fun hk => congrArg ExtReg.st (s.ext.react_rclk_of_unknown hk)⟩

/-! ### The pins written -/

/-- A pulse writes its pin, at both levels (40_pulsedriver.md R92). -/
theorem write_mem_pulse_iff {p r : Role} {l0 l : Level} {h : Nat} : .write r l ∈ pulse p l0 h ↔ r = p := by
  cases l <;> cases l0 <;> simp [pulse]

/-- `shift_bit(v)` writes SRCLK at both levels, and SER at `v` and low (40_pulsedriver.md R94). -/
theorem write_mem_shiftBit_iff {r : Role} {l v : Level} {d : Nat} :
    .write r l ∈ shiftBit d v ↔ r = .srclk ∨ (r = .ser ∧ (l = v ∨ l = false)) := by
  cases l <;> simp [shiftBit] <;> tauto

/-- The pins each Action writes (41_actionset.md R111), `ClearRegisterInverted` high only. -/
theorem actionMicros_write_cases {c : Config} {a : Action} {r : Role} {l : Level}
    (h : .write r l ∈ actionMicros c a) :
    (a = .clearRegister ∧ r = .srclr) ∨ (a = .clearRegisterInverted ∧ r = .srclr ∧ l = true) ∨
    (a = .enableOutputInverted ∧ r = .oe) ∨ ((a = .shiftZero ∨ a = .shiftOne) ∧ (r = .ser ∨ r = .srclk)) ∨
    (a = .latch ∧ r = .rclk) := by
  cases a with
  | clearRegister | latch => simpa [actionMicros, write_mem_pulse_iff] using h
  | clearRegisterInverted => simpa [actionMicros] using h
  | enableOutputInverted =>
    obtain ⟨hr, -⟩ : r = .oe ∧ l = false := by simpa [actionMicros] using h
    simp [hr]
  | shiftZero | shiftOne =>
    have hr : r = .srclk ∨ (r = .ser ∧ _) := write_mem_shiftBit_iff.mp h
    simpa using hr.symm.imp_left And.left

section
variable {a : Action} {s t : State} (h : exec a.instr s = .next t)
include h

/-- A step of an Action changes pins and register by one of its writes only. -/
theorem exec_action_board : (t.pins = s.pins ∧ t.ext = s.ext) ∨
    ∃ r l, .write r l ∈ actionMicros s.cfg a ∧ t.pins = s.pins.set r (.is l) ∧ t.ext = s.ext.react s.pins r l := by
  rcases exec_pins h with hsame | ⟨r, l, hm, -, hp, hx⟩
  · exact .inl hsame
  · rw [micro_action] at hm
    exact .inr ⟨r, l, List.mem_of_getElem? hm, hp, hx⟩

theorem exec_action_pin {q : Role} (hq : ∀ l, .write q l ∉ actionMicros s.cfg a) : t.pins.get q = s.pins.get q := by
  rcases exec_action_board h with ⟨hp, -⟩ | ⟨r, l, hm, hp, -⟩
  · rw [hp]
  · have hne : q ≠ r := fun he => hq l (he ▸ hm)
    rw [hp, PerRole.get_set_other _ _ hne]

theorem exec_action_st (hr : ∀ l, .write .rclk l ∉ actionMicros s.cfg a) : t.ext.st = s.ext.st := by
  rcases exec_action_board h with ⟨-, hx⟩ | ⟨r, l, hm, -, hx⟩
  · rw [hx]
  · have hne : r ≠ .rclk := fun he => hr l (he ▸ hm)
    rw [hx, ExtReg.react_st_of_ne _ _ hne]

theorem exec_action_sh (hk : ∀ l, .write .srclk l ∉ actionMicros s.cfg a)
    (hc : .write .srclr false ∉ actionMicros s.cfg a) : t.ext.sh = s.ext.sh := by
  rcases exec_action_board h with ⟨-, hx⟩ | ⟨r, l, hm, -, hx⟩
  · rw [hx]
  · have hne : r ≠ .srclk := fun he => hk l (he ▸ hm)
    have hhigh (he : r = .srclr) : l = true := Bool.eq_true_of_not_eq_false fun hl => hc (he ▸ hl ▸ hm)
    rw [hx, ExtReg.react_sh_of_ne _ _ hne hhigh]

end

/-! ### The other fields -/

/-- A micro-effect writes pins, register, timer and the ghost fields. -/
theorem MicroEffect.frame {s b : State} (h : MicroEffect s b) : ∃ ps x n tr el,
    b = { s with pins := ps, ext := x, timer := n, trace := tr, elapsed := el } := by
  rcases h with rfl | ⟨-, rfl⟩ | ⟨-, r, l, rfl⟩ | ⟨-, d, rfl⟩ <;> exact ⟨_, _, _, _, _, rfl⟩

/-- A step of an Action writes pins, register, timer, the ghost fields, the position, `t_cur` and `fsm`. -/
theorem actionStep_frame (s : State) (a : Action) : ∃ ps x n tr el p c f, s.actionStep a = { s with
    pins := ps, ext := x, timer := n, trace := tr, elapsed := el, pos := p, tCur := c, fsm := f } := by
  obtain ⟨b, hb, hw⟩ := actionStep_effect s a
  obtain ⟨ps, x, n, tr, el, rfl⟩ := hb.frame
  obtain ⟨p, c, f, hw⟩ := hw
  exact ⟨ps, x, n, tr, el, p, c, f, hw⟩

/-- Before the last micro-event of its word an Action only moves the index, so that `t_cur` and `fsm` stay (log 2). -/
theorem actionStep_inside {s : State} {a : Action} (hu : s.pos.u + 1 < (actionMicros s.cfg a).length) :
    (s.actionStep a).tCur = s.tCur ∧ (s.actionStep a).fsm = s.fsm := by
  unfold State.actionStep
  rcases runMicro_cases s (State.advanceAction a) (actionMicros s.cfg a)[s.pos.u]? with
    ⟨_, e⟩ | ⟨r, l, _, _, e⟩ | ⟨d, _, _, _, e⟩ | ⟨_, _, e⟩ | ⟨d, _, _, e⟩ | ⟨_, _, e⟩
  all_goals simp [e, State.advanceAction, hu]

/-- Settles O33: pins and register by the Action's writes, the other fields by the frame of its step. -/
theorem actionFrame : Obligations.ActionFrame := by
  intro a s t h
  have pin (q : Role) (hq : ∀ l, .write q l ∉ actionMicros s.cfg a) : t.pins.get q = s.pins.get q := exec_action_pin h hq
  refine ⟨fun h0 h1 => ⟨pin .ser ?_, pin .srclk ?_⟩, fun h0 => ⟨pin .rclk ?_, exec_action_st h ?_⟩,
    fun h0 h1 => pin .srclr ?_, fun h0 => pin .oe ?_, fun h0 h1 h2 => exec_action_sh h ?_ ?_, ?rest⟩
  case rest =>
    rw [exec_actionInstr] at h
    cases h
    have hend : ((s.actionStep a).tCur = s.tCur ∧ (s.actionStep a).fsm = s.fsm) ∨
        (actionMicros s.cfg a).length ≤ s.pos.u + 1 := (lt_or_ge _ _).imp_left actionStep_inside
    obtain ⟨ps, x, n, tr, el, p, c, f, he⟩ := actionStep_frame s a
    rw [he] at hend ⊢
    exact ⟨rfl, rfl, rfl, rfl, rfl, rfl, rfl, rfl, rfl, rfl, hend⟩
  all_goals -- the write named is not in the column of `a`
    intros
    intro hm
    simpa [*] using actionMicros_write_cases hm

end Sys2Proof.Machine
end

section
/-! The generators (42_patternengine.md), step by step: the opening writes and the closing Wait of a Step (R130), the
Draws of RandomRun (R137 to R141), what a generator leaves unchanged, and where draws are taken. -/

namespace Sys2Proof.Machine

/-! ### One micro-event of a Step -/

/-- The part `act` of a Step is the `shift_bit` of its bit (42_patternengine.md R130). -/
theorem stepMicros_act (c : Config) (v : Level) (d : Nat) : stepMicros c v d .act = shiftBit c.tUnit v :=
  actionMicros_shift c v

section
variable {s : State} (v : Level) (t : Nat) {u : Nat} {ms : List Micro} (after : State → State) (ht : s.timer = 0)
  (hu : s.pos.u = u)
include ht hu

/-- A write that is not the last micro-event of its part. -/
theorem genStep_write {r : Role} {l : Level} {m : Micro}
    (hm : (stepMicros s.cfg v (s.stepDelay t) s.pos.sph).drop u = .write r l :: m :: ms) :
    s.genStep v t after = (s.pinWrite r l).setU (u + 1) := by
  have hlt : u + 1 < (stepMicros s.cfg v (s.stepDelay t) s.pos.sph).length := by simp [length_of_drop_eq_cons hm]
  rw [State.genStep, hu, getElem?_of_drop_eq_cons hm, runMicro_write _ _ _ _ ht, State.advanceStep, State.pinWrite_pos,
    hu, if_pos hlt]

/-- A Wait of a Step only starts the timer, the position staying (40_pulsedriver.md R91). -/
theorem genStep_beginWait {d : Nat} (hd : 0 < d)
    (hm : (stepMicros s.cfg v (s.stepDelay t) s.pos.sph).drop u = .wait d :: ms) :
    s.genStep v t after = s.beginWait d := by
  rw [State.genStep, hu, getElem?_of_drop_eq_cons hm, runMicro_wait_begin _ _ _ ht hd.ne']

end

section
variable {s : State} (v : Level) (t : Nat) (after : State → State) (ht : s.timer = 0) (hu : s.pos.u = 0)
include ht hu

theorem genStep_act (hp : s.pos.sph = .act) : s.genStep v t after = (s.pinWrite .ser v).setU 1 :=
  genStep_write v t after ht hu (by rw [hp, stepMicros_act]; rfl)

theorem genStep_latch (hp : s.pos.sph = .latch) : s.genStep v t after = (s.pinWrite .rclk true).setU 1 :=
  genStep_write v t after ht hu (by rw [hp]; rfl)

theorem genStep_delay {d : Nat} (hp : s.pos.sph = .delay) (hc : s.tCur = .is d) (hd : 0 < d) :
    s.genStep v t after = s.beginWait d :=
  genStep_beginWait v t after ht hu hd (by rw [hp, stepDelay_of_tCur hc]; rfl)

end

theorem exec_randomRun (t : Nat) (s : State) : exec (.randomRun t) s = .next (s.randomRunStep t) := rfl

theorem randomRunStep_body {s : State} (hg : s.pos.gph = .body) (t : Nat) : s.randomRunStep t = s.bodyStep t := by
  simp only [State.randomRunStep, hg]

theorem randomRunStep_flush {s : State} (hg : s.pos.gph = .flush) (t : Nat) : s.randomRunStep t = s.flushStep t := by
  simp only [State.randomRunStep, hg]

theorem randomRunStep_drawOn {s : State} (hg : s.pos.gph = .drawOn) (t : Nat) : s.randomRunStep t = s.drawOnStep := by
  simp only [State.randomRunStep, hg]

theorem randomRunStep_drawOff {s : State} (hg : s.pos.gph = .drawOff) (t : Nat) :
    s.randomRunStep t = s.drawOffStep := by
  simp only [State.randomRunStep, hg]

/-- In body and flush a RandomRun steps through a Step (42_patternengine.md R139). -/
theorem randomRunStep_genStep {s : State} (hg : s.pos.gph = .body ∨ s.pos.gph = .flush) (t : Nat) :
    ∃ v after, (∀ b, Walk b (after b)) ∧ s.randomRunStep t = s.genStep v t after := by
  rcases hg with hg | hg
  · exact ⟨_, _, nextK_walk _ nextSeg_walk, randomRunStep_body hg t⟩
  · exact ⟨_, _, nextK_walk _ endWord_walk, randomRunStep_flush hg t⟩

/-- Settles O34: the three generators, and RandomRun in body and in flush, are steps of a Step, whose parts begin so. -/
theorem generatorMicroEvents : Obligations.GeneratorMicroEvents := by
  intro s t d ht
  refine ⟨fun hp hu => ?act, fun hp hu => ?latch, fun hp hu hc hd => ?delay⟩
  case act =>
    have write (v : Level) (after : State → State) := genStep_act v t after ht hu hp
    refine ⟨congrArg _ (write _ _), congrArg _ (write _ _), fun hg hs => ?_, fun hg hs => ?_, fun hg => ?_⟩
    · rw [exec_randomRun, randomRunStep_body hg, State.bodyStep, write, decide_eq_true hs]
    · rw [exec_randomRun, randomRunStep_body hg, State.bodyStep, write, decide_eq_false (not_not_intro hs)]
    · rw [exec_randomRun, randomRunStep_flush hg, State.flushStep, write]
  case latch =>
    have write (v : Level) (after : State → State) := genStep_latch v t after ht hu hp
    refine ⟨congrArg _ (write _ _), congrArg _ (write _ _), fun hg => ?_⟩
    obtain ⟨v, after, -, hstep⟩ := randomRunStep_genStep hg t
    rw [exec_randomRun, hstep, write]
  case delay =>
    have wait (v : Level) (after : State → State) := genStep_delay v t after ht hu hp hc hd
    refine ⟨congrArg _ (wait _ _), congrArg _ (wait _ _), fun hg => ?_⟩
    obtain ⟨v, after, -, hstep⟩ := randomRunStep_genStep hg t
    rw [exec_randomRun, hstep, wait]

/-! ### The Draws -/

/-- A Draw takes the value lined up first, or a free value (42_patternengine.md R136, R138; log 6). -/
theorem afterDraw_of_cons {s : State} {x : Draw} {xs : List Draw} (h : s.rndIn = x :: xs) :
    s.drawValue = x ∧ s.afterDraw = { s with rndIn := xs, trace := s.trace ++ [.draw x] } := by
  simp only [State.drawValue, State.afterDraw, h, and_self]

theorem afterDraw_of_nil {s : State} (h : s.rndIn = []) :
    s.afterDraw = { s with draws := s.draws + 1, trace := s.trace ++ [.draw s.drawValue] } := by
  simp only [State.drawValue, State.afterDraw, h]

theorem afterDraw_trace (s : State) : s.afterDraw.trace = s.trace ++ [.draw s.drawValue] := by
  unfold State.afterDraw State.drawValue
  split <;> rfl

theorem exec_drawOn {s : State} (ht : s.timer = 0) (hg : s.pos.gph = .drawOn) (t : Nat) :
    exec (.randomRun t) s = .next { s.afterDraw with
      countOn := .is (drawCount s.cfg s.drawValue), pos := { s.pos with gph := .drawOff } } := by
  rw [exec_randomRun, randomRunStep_drawOn hg, State.drawOnStep, if_pos ht]

theorem exec_drawOff {s : State} (ht : s.timer = 0) (hg : s.pos.gph = .drawOff) (t : Nat) :
    exec (.randomRun t) s = .next { s.afterDraw with
      countOff := .is (drawCount s.cfg s.drawValue)
      pos := ⟨s.pos.list, s.pos.widx, .body, 0, .on1, 0, .act, 0⟩ } := by
  rw [exec_randomRun, randomRunStep_drawOff hg, State.drawOffStep, if_pos ht]

/-- Settles O35, the value drawn being the one lined up or the free one. -/
theorem randomRunDraws : Obligations.RandomRunDraws := by
  intro s t ht
  refine ⟨fun x xs hg hx => ?_, fun x xs hg hx => ?_, fun hg hx => ⟨s.drawValue, ?_⟩,
    fun hg hx => ⟨s.drawValue, ?_⟩⟩
  · obtain ⟨hv, hd⟩ := afterDraw_of_cons hx
    rw [exec_drawOn ht hg, hv, hd]; rfl
  · obtain ⟨hv, hd⟩ := afterDraw_of_cons hx
    rw [exec_drawOff ht hg, hv, hd]; rfl
  · rw [exec_drawOn ht hg, afterDraw_of_nil hx]; rfl
  · rw [exec_drawOff ht hg, afterDraw_of_nil hx]; rfl

/-- Settles O36: the remainder by the default modulus 4 is the two low bits. -/
theorem drawReducesToLowTwoBits : Obligations.DrawReducesToLowTwoBits := by
  refine ⟨fun _ _ => rfl, fun x => ?_⟩
  have hcount : drawCount Config.reference x = x.toNat % 4 + 1 := rfl
  have hbits : (x.extractLsb' 0 2).toNat = x.toNat % 4 := by simp
  omega

/-! ### What a generator leaves unchanged -/

/-- A Step writes SER, SRCLK and RCLK only (42_patternengine.md R130, R131). -/
theorem stepMicros_write_cases {c : Config} {v : Level} {d : Nat} {p : Sph} {r : Role} {l : Level}
    (h : .write r l ∈ stepMicros c v d p) : r = .ser ∨ r = .srclk ∨ r = .rclk := by
  cases p with
  | act =>
    rw [stepMicros_act] at h
    obtain hr | ⟨hr, -⟩ := write_mem_shiftBit_iff.mp h
    · exact .inr (.inl hr)
    · exact .inl hr
  | latch => exact .inr (.inr (write_mem_pulse_iff.mp h))
  | delay => simp [stepMicros] at h

/-- A micro-operation changes the board by its write only, and so a Step leaves OE and SRCLR. -/
theorem genStep_pins (s : State) (v : Level) (t : Nat) {after : State → State} (h : ∀ b, Walk b (after b)) :
    (s.genStep v t after).pins.oe = s.pins.oe ∧ (s.genStep v t after).pins.srclr = s.pins.srclr := by
  rcases runMicro_pins s (advanceStep_walk (stepMicros s.cfg v (s.stepDelay t) s.pos.sph).length h)
    (stepMicros s.cfg v (s.stepDelay t) s.pos.sph)[s.pos.u]? with ⟨hp, -⟩ | ⟨r, l, hm, -, hp, -⟩
  · exact ⟨congrArg PerRole.oe hp, congrArg PerRole.srclr hp⟩
  · have hset : (s.genStep v t after).pins = s.pins.set r (.is l) := hp
    rw [hset]
    rcases stepMicros_write_cases (List.mem_of_getElem? hm) with rfl | rfl | rfl <;> exact ⟨rfl, rfl⟩

/-- A step of a Step writes pins, register, timer, the ghost fields, the position, `t_cur` and `fsm`. -/
theorem genStep_frame (s : State) (v : Level) (t : Nat) {after : State → State} (h : ∀ b, Walk b (after b)) :
    ∃ ps x n tr el p c f, s.genStep v t after = { s with
      pins := ps, ext := x, timer := n, trace := tr, elapsed := el, pos := p, tCur := c, fsm := f } := by
  obtain ⟨b, hb, hw⟩ := genStep_effect s v t h
  obtain ⟨ps, x, n, tr, el, rfl⟩ := hb.frame
  obtain ⟨p, c, f, hw⟩ := hw
  exact ⟨ps, x, n, tr, el, p, c, f, hw⟩

/-- Before its closing Wait a Step only moves the position, so that `t_cur` and `fsm` stay (log 2). -/
theorem genStep_inside {s : State} (hp : s.pos.sph ≠ .delay) (v : Level) (t : Nat) (after : State → State) :
    (s.genStep v t after).tCur = s.tCur ∧ (s.genStep v t after).fsm = s.fsm := by
  have adv (len : Nat) (b : State) (hb : b.pos = s.pos) :
      (b.advanceStep len after).tCur = b.tCur ∧ (b.advanceStep len after).fsm = b.fsm := by
    unfold State.advanceStep
    split
    · exact ⟨rfl, rfl⟩
    · split
      · exact ⟨rfl, rfl⟩
      · exact ⟨rfl, rfl⟩
      · next hd => exact absurd (hb ▸ hd) hp
  unfold State.genStep
  dsimp only
  rcases runMicro_cases s (State.advanceStep (stepMicros s.cfg v (s.stepDelay t) s.pos.sph).length after)
    (stepMicros s.cfg v (s.stepDelay t) s.pos.sph)[s.pos.u]? with
    ⟨_, e⟩ | ⟨r, l, _, _, e⟩ | ⟨d, _, _, _, e⟩ | ⟨_, _, e⟩ | ⟨d, _, _, e⟩ | ⟨_, _, e⟩ <;> rw [e]
  · exact ⟨rfl, rfl⟩
  · exact adv _ (s.pinWrite r l) rfl
  · exact ⟨rfl, rfl⟩
  · exact adv _ (s.beginWait 0) rfl
  · exact adv _ s.tick rfl
  · exact adv _ s rfl

/-- What no generator touches (42_patternengine.md R131). -/
structure GeneratorKeeps (s u : State) : Prop where
  oe : u.pins.oe = s.pins.oe
  srclr : u.pins.srclr = s.pins.srclr
  init : u.init = s.init
  panicRole : u.panicRole = s.panicRole
  owed : u.owed = s.owed
  cfg : u.cfg = s.cfg
  rstIn : u.rstIn = s.rstIn
  evIn : u.evIn = s.evIn
  walked : (u.tCur = s.tCur ∧ u.fsm = s.fsm) ∨ s.pos.sph = .delay

/-- What only the Draws of RandomRun write (42_patternengine.md R139, R141). -/
def DrawsKept (s u : State) : Prop :=
  u.countOn = s.countOn ∧ u.countOff = s.countOff ∧ u.rndIn = s.rndIn ∧ u.draws = s.draws

theorem genStep_keeps (s : State) (v : Level) (t : Nat) {after : State → State} (h : ∀ b, Walk b (after b)) :
    GeneratorKeeps s (s.genStep v t after) ∧ DrawsKept s (s.genStep v t after) := by
  obtain ⟨hoe, hclr⟩ := genStep_pins s v t h
  have hwalk : ((s.genStep v t after).tCur = s.tCur ∧ (s.genStep v t after).fsm = s.fsm) ∨ s.pos.sph = .delay :=
    (em (s.pos.sph = .delay)).symm.imp_left fun hp => genStep_inside hp v t after
  obtain ⟨ps, x, n, tr, el, p, c, f, e⟩ := genStep_frame s v t h
  rw [e] at hoe hclr hwalk ⊢
  exact ⟨⟨hoe, hclr, rfl, rfl, rfl, rfl, rfl, rfl, hwalk⟩, rfl, rfl, rfl, rfl⟩

theorem sweepStep_keeps (s : State) (t : Nat) :
    GeneratorKeeps s (s.sweepStep t) ∧ DrawsKept s (s.sweepStep t) :=
  genStep_keeps s _ t (nextK_walk _ endWord_walk)

theorem alternateStep_keeps (s : State) (t : Nat) :
    GeneratorKeeps s (s.alternateStep t) ∧ DrawsKept s (s.alternateStep t) :=
  genStep_keeps s _ t (nextK_walk _ endWord_walk)

/-- In body and flush a RandomRun is inside a Step. -/
theorem randomRunStep_keeps {s : State} (hg : s.pos.gph = .body ∨ s.pos.gph = .flush) (t : Nat) :
    GeneratorKeeps s (s.randomRunStep t) ∧ DrawsKept s (s.randomRunStep t) := by
  obtain ⟨v, after, hw, hstep⟩ := randomRunStep_genStep hg t
  rw [hstep]
  exact genStep_keeps s v t hw

/-- In a draw phase a RandomRun writes the timer, what the Draw takes and gives, and the position. -/
theorem randomRunStep_draw_frame {s : State} (hg : s.pos.gph = .drawOn ∨ s.pos.gph = .drawOff) (t : Nat) :
    ∃ n rs d tr on off p, s.randomRunStep t = { s with
      timer := n, rndIn := rs, draws := d, trace := tr, countOn := on, countOff := off, pos := p } := by
  obtain ⟨rs, d, tr, hd⟩ := afterDraw_frame s
  rcases hg with hg | hg
  · rw [randomRunStep_drawOn hg, State.drawOnStep, hd]
    split <;> exact ⟨_, _, _, _, _, _, _, rfl⟩
  · rw [randomRunStep_drawOff hg, State.drawOffStep, hd]
    split <;> exact ⟨_, _, _, _, _, _, _, rfl⟩

theorem randomRunStep_generatorKeeps (s : State) (t : Nat) : GeneratorKeeps s (s.randomRunStep t) := by
  have draw (hg : s.pos.gph = .drawOn ∨ s.pos.gph = .drawOff) : GeneratorKeeps s (s.randomRunStep t) := by
    obtain ⟨n, rs, d, tr, on, off, p, e⟩ := randomRunStep_draw_frame hg t
    rw [e]
    exact ⟨rfl, rfl, rfl, rfl, rfl, rfl, rfl, rfl, .inl ⟨rfl, rfl⟩⟩
  cases hg : s.pos.gph with
  | drawOn => exact draw (.inl hg)
  | drawOff => exact draw (.inr hg)
  | body => exact (randomRunStep_keeps (.inl hg) t).1
  | flush => exact (randomRunStep_keeps (.inr hg) t).1

/-- Settles O43, generator by generator. -/
theorem generatorFrame : Obligations.GeneratorFrame := by
  intro s u t h
  have keeps : GeneratorKeeps s u := by
    rcases h with h | h | h <;> cases h
    · exact (sweepStep_keeps s t).1
    · exact (alternateStep_keeps s t).1
    · exact randomRunStep_generatorKeeps s t
  obtain ⟨hoe, hclr, hi, hp, ho, hc, hr, he, hw⟩ := keeps
  refine ⟨hoe, hclr, hi, hp, ho, hc, hr, he, hw, fun hne => ?_, fun hrun hg => ?_⟩
  · rcases h with h | h | h
    · cases h; exact (sweepStep_keeps s t).2
    · cases h; exact (alternateStep_keeps s t).2
    · exact absurd h hne
  · cases hrun
    exact (randomRunStep_keeps hg t).2

/-! ### Where draws are taken -/

/-- Nothing of a Draw happens from `s` to `u`: port, counter and counts stay, and no `R x` is emitted. -/
def NoDraw (s u : State) : Prop := DrawsKept s u ∧ ∀ x, u.trace ≠ s.trace ++ [.draw x]

/-- The emission of one micro-event that is no Draw. -/
theorem noDraw_of_emit {s u : State} {e : TraceEvent} (hk : DrawsKept s u) (ht : u.trace = s.trace ++ [e])
    (he : ∀ x, e ≠ .draw x) : NoDraw s u :=
  ⟨hk, fun x => by simpa [ht] using he x⟩

theorem noDraw_of_silent {s u : State} (hk : DrawsKept s u) (ht : u.trace = s.trace) : NoDraw s u :=
  ⟨hk, fun x => by simp [ht]⟩

theorem drawsKept_refl (s : State) : DrawsKept s s := ⟨rfl, rfl, rfl, rfl⟩

theorem noDraw_refl (s : State) : NoDraw s s := noDraw_of_silent (drawsKept_refl s) rfl

/-- A walk of the position makes no difference. -/
theorem NoDraw.walk {s b u : State} (h : NoDraw s b) (hw : Walk b u) : NoDraw s u := by
  obtain ⟨_, _, _, rfl⟩ := hw
  exact h

theorem MicroEffect.noDraw {s b : State} (h : MicroEffect s b) : NoDraw s b := by
  rcases h with rfl | ⟨-, rfl⟩ | ⟨-, r, l, rfl⟩ | ⟨-, d, rfl⟩
  · exact noDraw_refl b
  · exact noDraw_of_silent (drawsKept_refl s) rfl
  · exact noDraw_of_emit (drawsKept_refl s) rfl fun _ => by simp
  · exact noDraw_of_emit (drawsKept_refl s) rfl fun _ => by simp

theorem EventEffect.noDraw {s u : State} (h : EventEffect s u) : NoDraw s u := by
  cases h with
  | notTaken _ e => exact e ▸ noDraw_refl s
  | taken _ e hw =>
    have hemit : NoDraw s (s.emit (.event e)) := noDraw_of_emit (drawsKept_refl s) rfl fun _ => by simp
    exact hemit.walk hw
  | exit _ _ e => exact e ▸ noDraw_of_emit (e := .event .back) (drawsKept_refl s) rfl fun _ => by simp

theorem noDraw_of_effect {s u : State} (h : ∃ b, MicroEffect s b ∧ Walk b u) : NoDraw s u := by
  obtain ⟨b, hb, hw⟩ := h
  exact hb.noDraw.walk hw

/-- Only RandomRun draws, and not in its body and flush (42_patternengine.md R141). -/
theorem exec_noDraw {i : Instr} {s u : State} (h : exec i s = .next u)
    (hi : ∀ t, i = .randomRun t → s.pos.gph = .body ∨ s.pos.gph = .flush) : NoDraw s u := by
  cases i with
  | clearRegister => cases h; exact noDraw_of_effect (actionStep_effect s .clearRegister)
  | clearRegisterInverted => cases h; exact noDraw_of_effect (actionStep_effect s .clearRegisterInverted)
  | enableOutputInverted => cases h; exact noDraw_of_effect (actionStep_effect s .enableOutputInverted)
  | shiftZero => cases h; exact noDraw_of_effect (actionStep_effect s .shiftZero)
  | shiftOne => cases h; exact noDraw_of_effect (actionStep_effect s .shiftOne)
  | latch => cases h; exact noDraw_of_effect (actionStep_effect s .latch)
  | sweep t => cases h; exact noDraw_of_effect (sweepStep_effect s t)
  | alternate t => cases h; exact noDraw_of_effect (alternateStep_effect s t)
  | randomRun t =>
    cases h
    obtain ⟨v, after, hw, hstep⟩ := randomRunStep_genStep (hi t rfl) t
    exact hstep ▸ noDraw_of_effect (genStep_effect s v t hw)
  | left | center | right => cases h; exact (select_effect ..).noDraw
  | back => cases h; exact (cancel_effect s).noDraw

theorem decodeEvent_ne_randomRun (c : EvCode) (t : Nat) : decodeEvent c ≠ .randomRun t := by
  unfold decodeEvent
  split <;> simp

theorem bootInit_noDraw (s : State) (r : Role) : NoDraw s (s.bootInit r) := by
  unfold State.bootInit State.initDone
  dsimp only
  split
  · split <;> exact noDraw_of_emit (e := .init r) (drawsKept_refl s) rfl fun _ => by simp
  · exact noDraw_of_emit (e := .init r) (drawsKept_refl s) rfl fun _ => by simp

theorem emitLast_noDraw (s : State) : NoDraw s s.emitLast := by
  unfold State.emitLast
  split
  · next r _ _ => exact noDraw_of_emit (e := .panic r) (drawsKept_refl s) rfl fun _ => by simp
  · exact noDraw_of_silent (drawsKept_refl s) rfl
  · exact noDraw_of_emit (e := .farewell) (drawsKept_refl s) rfl fun _ => by simp

/-- A step of the sequencer that finds `rnd_req` false draws nothing. -/
theorem SeqEffect.noDraw {s u : State} (e : SeqEffect s u) (hr : s.rndReq = false) : NoDraw s u := by
  cases e with
  | boot r _ _ e => exact e ▸ bootInit_noDraw s r
  | word w i h hd e =>
    refine exec_noDraw e fun t hi => ?_
    subst hi
    have hcur := current_eq_some_iff.mpr ⟨w, h, hd⟩
    have hg : ¬(s.pos.gph = .drawOn ∨ s.pos.gph = .drawOff) := fun hg => by
      simp [(rndReq_iff s).mpr ⟨⟨t, hcur⟩, hg⟩] at hr
    cases hp : s.pos.gph <;> simp [hp] at hg ⊢
  | event c cs _ _ e =>
    exact exec_noDraw (s := { s with evIn := cs }) e fun t hi => absurd hi (decodeEvent_ne_randomRun c t)
  | blocked _ _ e | stopped _ _ e => exact e ▸ noDraw_refl s
  | listOver _ e => exact e ▸ (noDraw_refl s).walk (leaveList_walk s)
  | last _ e => exact e ▸ emitLast_noDraw s

/-- A step of the sequencer with a word next is that word's. -/
theorem SeqEffect.exec_of_current {s u : State} {i : Instr} (e : SeqEffect s u) (hc : s.current = some i) :
    exec i s = .next u := by
  obtain ⟨w, hw, hd⟩ := current_eq_some_iff.mp hc
  cases e with
  | word v j h hj e =>
    cases hw.symm.trans h
    cases hd.symm.trans hj
    exact e
  | boot _ h | event _ _ h | blocked h | listOver h | last h | stopped h => cases hw.symm.trans h

/-- Under the invariant no Wait runs in a draw phase (10_state.md R27). -/
theorem State.Inv.timer_of_draw {s : State} {t : Nat} (hi : s.Inv) (hc : s.current = some (.randomRun t))
    (hg : s.pos.gph = .drawOn ∨ s.pos.gph = .drawOff) : s.timer = 0 := by
  obtain ⟨w, hw, hd⟩ := current_eq_some_iff.mp hc
  obtain ⟨-, hin⟩ := hi.runs_of_word hw hd
  rcases hg with hg | hg
  · obtain ⟨-, ht, -⟩ := (inWord_drawOn hg).mp hin
    exact ht
  · obtain ⟨-, ht, -⟩ := (inWord_drawOff hg).mp hin
    exact ht

/-- A step of the sequencer that finds `rnd_req` true is a Draw. -/
theorem SeqEffect.draw {s u : State} (e : SeqEffect s u) (hi : s.Inv) (hr : s.rndReq = true) :
    u.trace = s.trace ++ [.draw s.drawValue] := by
  obtain ⟨⟨t, hc⟩, hg⟩ := (rndReq_iff s).mp hr
  have ht := hi.timer_of_draw hc hg
  have hx := e.exec_of_current hc
  rcases hg with hg | hg
  · rw [exec_drawOn ht hg] at hx
    cases hx
    exact afterDraw_trace s
  · rw [exec_drawOff ht hg] at hx
    cases hx
    exact afterDraw_trace s

/-- Settles O56, the level of `rst` consumed making no difference to `rnd_req` and to the invariant. -/
theorem drawsOnlyWhenRequested : Obligations.DrawsOnlyWhenRequested := by
  intro s u hi hn h
  obtain ⟨rs, e⟩ := step_noReset hn h
  refine ⟨fun hr => ⟨_, e.draw { hi with } hr⟩, fun hr => ?_⟩
  obtain ⟨⟨hon, hoff, hin, hdraws⟩, htrace⟩ := e.noDraw hr
  exact ⟨hin, hdraws, hon, hoff, htrace⟩

end Sys2Proof.Machine
end

section
/-! Whole Steps and whole loops of Steps (42_patternengine.md R130): a Step is its three parts, and a counted loop runs
one Step for each index that is left. -/

namespace Sys2Proof.Machine

/-! ### What Steps do -/

/-- The state with Steps shifting the bits `vs` completed, but for the position. -/
def State.steps (s : State) (t : Nat) (vs : List Level) : State :=
  s.performed (s.board.afterSteps vs) (stepsTrace s.cfg t vs) (vs.length * stepTime s.cfg t)

theorem steps_nil (s : State) (t : Nat) : s.steps t [] = s := by
  simp [State.steps, State.performed, State.board, Board.afterSteps, stepsTrace]

theorem steps_append (s : State) (t : Nat) (vs ws : List Level) : (s.steps t vs).steps t ws = s.steps t (vs ++ ws) := by
  simp [State.steps, State.performed, State.board, Board.afterSteps, stepsTrace, Nat.add_mul, Nat.add_assoc]

theorem steps_singleton (s : State) (t : Nat) (v : Level) :
    s.steps t [v] = s.performed (s.board.afterSteps [v]) (stepTrace s.cfg t v) (stepTime s.cfg t) := by
  simp [State.steps, stepsTrace]

theorem length_trace_steps (s : State) (t : Nat) (vs : List Level) :
    (s.steps t vs).trace.length = s.trace.length + 13 * vs.length := by
  simp [State.steps, State.performed]

theorem elapsed_steps (s : State) (t : Nat) (vs : List Level) :
    (s.steps t vs).elapsed = s.elapsed + vs.length * stepTime s.cfg t := rfl

/-- A Step is its shift Action, its Latch and its Wait (42_patternengine.md R130). -/
theorem perform_stepMicros (s : State) (t : Nat) (v : Level) :
    ((s.perform (stepMicros s.cfg v t .act)).perform (stepMicros s.cfg v t .latch)).perform
      (stepMicros s.cfg v t .delay) = s.steps t [v] := by
  rw [← perform_append, ← perform_append, steps_singleton, ← waitSum_stepTrace s.cfg t v]
  cases v <;> rfl

/-- A Step takes what its parts take. -/
theorem stepCost_eq (c : Config) (t : Nat) (v : Level) : stepCost c t =
    stepsOf (stepMicros c v t .act) + (stepsOf (stepMicros c v t .latch) + stepsOf (stepMicros c v t .delay)) := by
  have hact : stepsOf (stepMicros c v t .act) = 8 + 4 * c.tUnit := by rw [stepMicros_act, stepsOf_shiftBit]
  have hlatch : stepsOf (stepMicros c v t .latch) = 4 + 2 * c.tHold := stepsOf_latch c
  have hdelay : stepsOf (stepMicros c v t .delay) = 1 + t := rfl
  rw [hact, hlatch, hdelay, stepCost, stepTime]
  omega

/-- A run through the bits `vs` leads on to the rest of a run through `vs ++ ws`. -/
theorem runs_bits_append {n : Nat} {vs ws : List Level} {s u : State} (h : runs (vs.length * n) s = .next u) :
    runs ((vs ++ ws).length * n) s = runs (ws.length * n) u := by
  rw [List.length_append, Nat.add_mul, runs_add _ _ h]

/-! ### A part of a Step -/

/-- The position moved to the start of part `p` of the Step `k` of the loop. -/
def State.atStep (s : State) (k : Nat) (p : Sph) : State := { s with pos := { s.pos with k := k, sph := p, u := 0 } }

/-- What follows a completed part of a Step (42_patternengine.md R130). -/
def State.nextPart (after : State → State) (s : State) : State :=
  match s.pos.sph with
  | .act => s.atStep s.pos.k .latch
  | .latch => s.atStep s.pos.k .delay
  | .delay => after s

theorem nextPart_of_act {s : State} (hp : s.pos.sph = .act) (after : State → State) (ms : List Micro) (u : Nat) :
    State.nextPart after ((s.perform ms).setU u) = (s.perform ms).atStep s.pos.k .latch := by
  have hp' : ((s.perform ms).setU u).pos.sph = .act := hp
  rw [State.nextPart, hp']
  rfl

/-- A step of a Step is one at a micro-operation of its part. -/
theorem genStep_eq_runMicro {s : State} {t : Nat} (hc : s.tCur = .is t) (v : Level) (after : State → State) :
    s.genStep v t after = s.runMicro
      (State.advanceIn (stepMicros s.cfg v t s.pos.sph).length (State.nextPart after))
      (stepMicros s.cfg v t s.pos.sph)[s.pos.u]? := by
  rw [State.genStep, stepDelay_of_tCur hc]
  rfl

/-- `b` is `s` but for what micro-operations write and for the place in a counted loop of Steps. -/
def SameLoop (s b : State) : Prop :=
  ∃ ps x n tr el k p u, b = { s with
    pins := ps, ext := x, timer := n, trace := tr, elapsed := el, pos := { s.pos with k := k, sph := p, u := u } }

/-- While the block is in the loop of `s`, each of its steps is one of the Step `k` that shifts `f k`; `done` follows
the last of `bound` Steps. -/
def State.InLoop (s : State) (f : Nat → Level) (t bound : Nat) (done : State → State) : Prop :=
  ∀ b, SameLoop s b → step b = .next (b.genStep (f b.pos.k) t (State.nextK bound done))

theorem SameLoop.trans {s b c : State} (h : SameLoop s b) (g : SameLoop b c) : SameLoop s c := by
  obtain ⟨_, _, _, _, _, _, _, _, rfl⟩ := h
  obtain ⟨_, _, _, _, _, _, _, _, rfl⟩ := g
  exact ⟨_, _, _, _, _, _, _, _, rfl⟩

theorem SamePart.sameLoop {s b : State} (h : SamePart s b) : SameLoop s b := by
  obtain ⟨_, _, _, _, _, _, rfl⟩ := h
  exact ⟨_, _, _, _, _, _, _, _, rfl⟩

/-- A part run from its start to its end. -/
theorem runs_wholePart {s : State} {ms : List Micro} {fin : State → State} (h : s.InPart ms fin) (ht : s.timer = 0)
    (hu : s.pos.u = 0) (hne : 0 < ms.length) :
    runs (stepsOf ms) s = .next (fin ((s.perform ms).setU (ms.length - 1))) := by
  obtain ⟨m, rest, hm⟩ := List.exists_cons_of_length_pos hne
  have hrun := runs_part h ht (m := m) (rest := rest) (by rw [hu, List.drop_zero, hm])
  rwa [← hm] at hrun

/-! ### Whole Steps, whole loops -/

section
variable {s : State} {f : Nat → Level} {t bound : Nat} {done : State → State} (h : s.InLoop f t bound done)
include h

theorem State.InLoop.of_sameLoop {b : State} (g : SameLoop s b) : b.InLoop f t bound done :=
  fun c hc => h c (g.trans hc)

variable (ht : s.timer = 0) (hc : s.tCur = .is t)
include hc

/-- Each part of a Step is a part of the block's run. -/
theorem State.InLoop.inPart : s.InPart (stepMicros s.cfg (f s.pos.k) t s.pos.sph)
    (State.nextPart (State.nextK bound done)) := by
  intro b hb
  have e (hcb : b.tCur = .is t) := genStep_eq_runMicro hcb (f b.pos.k) (State.nextK bound done)
  rw [h b hb.sameLoop]
  obtain ⟨_, _, _, _, _, _, rfl⟩ := hb
  exact congrArg _ (e hc)

include ht

theorem State.InLoop.runs_part (hu : s.pos.u = 0) {ms : List Micro}
    (hms : stepMicros s.cfg (f s.pos.k) t s.pos.sph = ms) : runs (stepsOf ms) s =
      .next (State.nextPart (State.nextK bound done) ((s.perform ms).setU (ms.length - 1))) :=
  hms ▸ runs_wholePart (h.inPart hc) ht hu (stepMicros_length_pos ..)

/-- One whole Step (42_patternengine.md R130). -/
theorem State.InLoop.runs_step (hp : s.pos.sph = .act) (hu : s.pos.u = 0) : runs (stepCost s.cfg t) s = .next
    (State.nextK bound done ((s.steps t [f s.pos.k]).atStep s.pos.k .delay)) := by
  have hact := h.runs_part ht hc hu (ms := stepMicros s.cfg (f s.pos.k) t .act) (by rw [hp])
  rw [nextPart_of_act hp] at hact
  have inLatch := h.of_sameLoop (b := (s.perform (stepMicros s.cfg (f s.pos.k) t .act)).atStep s.pos.k .latch)
    ⟨_, _, _, _, _, _, _, _, rfl⟩
  have inDelay := h.of_sameLoop (b := ((s.perform (stepMicros s.cfg (f s.pos.k) t .act)).perform
    (stepMicros s.cfg (f s.pos.k) t .latch)).atStep s.pos.k .delay) ⟨_, _, _, _, _, _, _, _, rfl⟩
  have hlatch := inLatch.runs_part ht hc rfl rfl
  have hdelay := inDelay.runs_part ht hc rfl rfl
  rw [stepCost_eq s.cfg t (f s.pos.k), runs_add _ _ hact, ← perform_stepMicros]
  exact (runs_add _ _ hlatch).trans hdelay

end

/-- The rest of a counted loop, `n + 1` Steps (10_state.md R31). -/
theorem State.InLoop.runs_rest {s : State} {f : Nat → Level} {t bound : Nat} {done : State → State}
    (h : s.InLoop f t bound done) (ht : s.timer = 0) (hc : s.tCur = .is t) (hp : s.pos.sph = .act) (hu : s.pos.u = 0)
    {n : Nat} (hn : s.pos.k + n + 1 = bound) :
    runs (((List.range' s.pos.k (n + 1)).map f).length * stepCost s.cfg t) s =
      .next (done ((s.steps t ((List.range' s.pos.k (n + 1)).map f)).atStep (s.pos.k + n) .delay)) := by
  induction n generalizing s with
  | zero =>
    have hlast : ¬ s.pos.k + 1 < bound := by omega
    have hstep := (h.runs_step ht hc hp hu).trans (congrArg _ (if_neg hlast))
    rwa [← Nat.one_mul (stepCost _ _)] at hstep
  | succ n ih =>
    have hlt : s.pos.k + 1 < bound := by omega
    have hstep := (h.runs_step ht hc hp hu).trans (congrArg _ (if_pos hlt))
    rw [← Nat.one_mul (stepCost _ _)] at hstep
    have inRest := h.of_sameLoop (b := (s.steps t [f s.pos.k]).atStep (s.pos.k + 1) .act)
      ⟨_, _, _, _, _, _, _, _, rfl⟩
    have hrest := ih inRest ht hc rfl rfl (show s.pos.k + 1 + n + 1 = bound by omega)
    have hbits : (List.range' s.pos.k (n + 1 + 1)).map f =
      [f s.pos.k] ++ (List.range' (s.pos.k + 1) (n + 1)).map f := rfl
    rw [hbits, runs_bits_append hstep, ← steps_append, show s.pos.k + (n + 1) = s.pos.k + 1 + n by omega]
    exact hrest

/-- The block is at the first micro-event of a loop of Steps with delay `t`. -/
structure State.AtLoop (s : State) (t : Nat) : Prop where
  timer : s.timer = 0
  tCur : s.tCur = .is t
  sph : s.pos.sph = .act
  u : s.pos.u = 0
  k : s.pos.k = 0

/-- A whole counted loop, from its first Step (42_patternengine.md R130, 10_state.md R31). -/
theorem State.InLoop.runs_loop {s : State} {f : Nat → Level} {t bound : Nat} {done : State → State}
    (h : s.InLoop f t bound done) (hs : s.AtLoop t) (hb : bound ≠ 0) {vs : List Level}
    (hvs : (List.range bound).map f = vs) :
    runs (vs.length * stepCost s.cfg t) s = .next (done ((s.steps t vs).atStep (bound - 1) .delay)) := by
  obtain ⟨n, rfl⟩ := Nat.exists_eq_succ_of_ne_zero hb
  have hrun := h.runs_rest hs.timer hs.tCur hs.sph hs.u (n := n) (by rw [hs.k, Nat.zero_add])
  rwa [hs.k, ← List.range_eq_range', hvs, Nat.zero_add] at hrun

end Sys2Proof.Machine
end

section
/-! The loops of the three generators (42_patternengine.md R132, R134, R139): one Step inside each of them, and the
whole Sweep and Alternate. -/

namespace Sys2Proof.Machine

/-! ### Which loop the block is in -/

/-- With no reset scheduled a step is that of the word at the position. -/
theorem step_of_current {s : State} {i : Instr} (hr : s.rstIn = []) (hc : s.current = some i) : step s = exec i s := by
  obtain ⟨w, hw, hd⟩ := current_eq_some_iff.mp hc
  exact step_word hr hw hd

/-- What decides on a word and its phase is the same all through a loop. -/
theorem SameLoop.frame {s b : State} (h : SameLoop s b) :
    b.rstIn = s.rstIn ∧ b.next = s.next ∧ b.pos.gph = s.pos.gph := by
  obtain ⟨_, _, _, _, _, _, _, _, rfl⟩ := h
  exact ⟨rfl, next_congr rfl rfl rfl rfl rfl rfl, rfl⟩

theorem SameLoop.step {s b : State} {i : Instr} (h : SameLoop s b) (hr : s.rstIn = []) (hc : s.current = some i) :
    step b = exec i b := by
  obtain ⟨w, hw, hd⟩ := current_eq_some_iff.mp hc
  obtain ⟨hrst, hnext, -⟩ := h.frame
  exact step_word (hrst.trans hr) (hnext.trans hw) hd

section
variable {s : State} {t : Nat} (hr : s.rstIn = [])
include hr

/-- The loop of Sweep (42_patternengine.md R132). -/
theorem inLoop_sweep (hc : s.current = some (.sweep t)) :
    s.InLoop (fun k => decide (k < s.cfg.sweepHalf)) t (2 * s.cfg.sweepHalf) State.endWord := by
  intro b hb
  rw [hb.step hr hc]
  obtain ⟨_, _, _, _, _, _, _, _, rfl⟩ := hb
  rfl

/-- The loop of Alternate (42_patternengine.md R134). -/
theorem inLoop_alternate (hc : s.current = some (.alternate t)) :
    s.InLoop (fun k => decide (k % 2 = 0)) t s.cfg.altSteps State.endWord := by
  intro b hb
  rw [hb.step hr hc]
  obtain ⟨_, _, _, _, _, _, _, _, rfl⟩ := hb
  rfl

/-- The loop of a segment of a repetition (42_patternengine.md R139, R140). -/
theorem inLoop_segment (hc : s.current = some (.randomRun t)) (hg : s.pos.gph = .body) :
    s.InLoop (fun _ => decide (s.pos.seg ≠ .off)) t (s.segCount + 1) State.nextSeg := by
  intro b hb
  obtain ⟨-, -, hgph⟩ := hb.frame
  rw [hb.step hr hc, exec_randomRun, randomRunStep_body (hgph.trans hg)]
  obtain ⟨_, _, _, _, _, _, _, _, rfl⟩ := hb
  rfl

/-- The loop of the flush (42_patternengine.md R142). -/
theorem inLoop_flush (hc : s.current = some (.randomRun t)) (hg : s.pos.gph = .flush) :
    s.InLoop (fun _ => false) t s.cfg.rrFlush State.endWord := by
  intro b hb
  obtain ⟨-, -, hgph⟩ := hb.frame
  rw [hb.step hr hc, exec_randomRun, randomRunStep_flush (hgph.trans hg)]
  obtain ⟨_, _, _, _, _, _, _, _, rfl⟩ := hb
  rfl

end

/-! ### One Step inside a loop -/

/-- A Step that is not the last of its loop leads to the next one. -/
theorem State.InLoop.runs_step_inside {s : State} {f : Nat → Level} {t bound : Nat} {done : State → State}
    (h : s.InLoop f t bound done) (ht : s.timer = 0) (hc : s.tCur = .is t) (hp : s.pos.sph = .act) (hu : s.pos.u = 0)
    (hk : s.pos.k + 1 < bound) : runs (stepCost s.cfg t) s = .next
      { s.performed (s.board.afterSteps [f s.pos.k]) (stepTrace s.cfg t (f s.pos.k)) (stepTime s.cfg t) with
        pos := { s.pos with k := s.pos.k + 1 } } := by
  have hpos : ({ s.pos with k := s.pos.k + 1 } : Pos) = { s.pos with k := s.pos.k + 1, sph := .act, u := 0 } := by
    rw [← hp, ← hu]
  rw [h.runs_step ht hc hp hu, hpos, ← steps_singleton]
  exact congrArg _ (if_pos hk)

theorem segCount_eq {s : State} {n : Nat} (hoff : s.pos.seg = .off → s.countOff = .is n)
    (hon : s.pos.seg ≠ .off → s.countOn = .is n) : s.segCount = n := by
  unfold State.segCount
  cases hs : s.pos.seg with
  | off => simp only [hoff hs]
  | on1 | on2 => simp only [hon (by simp [hs])]

/-- Settles O37: each generator is in its loop. -/
theorem stepOfEachGeneratorRuns : Obligations.StepOfEachGeneratorRuns := by
  intro s t hr ht hp hu hc
  refine ⟨fun hw hk => ?_, fun hw hk => ?_, fun n hw hg hk hoff hon => ?_, fun hw hg hk => ?_⟩
  · exact (inLoop_sweep hr hw).runs_step_inside ht hc hp hu hk
  · exact (inLoop_alternate hr hw).runs_step_inside ht hc hp hu hk
  · refine (inLoop_segment hr hw hg).runs_step_inside ht hc hp hu ?_
    rw [segCount_eq hoff hon]
    omega
  · exact (inLoop_flush hr hw hg).runs_step_inside ht hc hp hu hk

/-! ### The whole Sweep and the whole Alternate -/

/-- Where the next word starts does not depend on the place inside the word that is done. -/
theorem endWord_congr_pos {s : State} {p : Pos} (hl : p.list = s.pos.list) (hw : p.widx = s.pos.widx) :
    State.endWord { s with pos := p } = s.endWord := by
  have enter (l : ListName) (ws : List OpWord) (n : Nat) :
      State.enterFrom { s with pos := p } l ws n = s.enterFrom l ws n := by
    induction ws generalizing n with
    | nil => rfl
    | cons w ws ih =>
      simp only [State.enterFrom, ih]
  simp only [State.endWord, hl, hw, enter]

theorem endWord_atStep (s : State) (k : Nat) (p : Sph) : (s.atStep k p).endWord = s.endWord :=
  endWord_congr_pos (s := s) rfl rfl

theorem State.AtStart.current {s : State} {i : Instr} (h : s.AtStart i) : s.rstIn = [] ∧ s.current = some i := by
  obtain ⟨hr, -, w, e, hw, hd, -⟩ := h
  exact ⟨hr, current_eq_some_iff.mpr ⟨w, hw, hd⟩⟩

/-- A word that has loaded `t_cur` starts where a loop does (10_state.md R26, R30). -/
theorem atLoop_of_start {s : State} {t : Nat} {g : Gph} (ht : s.timer = 0) (hc : s.tCur = .is t)
    (hp : s.pos = { Pos.rest with list := s.pos.list, widx := s.pos.widx, gph := g }) : s.AtLoop t :=
  ⟨ht, hc, by rw [hp]; rfl, by rw [hp]; rfl, by rw [hp]; rfl⟩

theorem wordEntry_sweep {c : Config} {w : OpWord} {e : Gph × OrUnknown Nat} {t : Nat}
    (hd : decodeWord w = .ok (.sweep t)) (he : wordEntry c w = some e) : c.sweepHalf ≠ 0 ∧ (.body, .is t) = e := by
  simpa [wordEntry, hd] using he

theorem wordEntry_alternate {c : Config} {w : OpWord} {e : Gph × OrUnknown Nat} {t : Nat}
    (hd : decodeWord w = .ok (.alternate t)) (he : wordEntry c w = some e) :
    c.altSteps ≠ 0 ∧ (.body, .is t) = e := by
  simpa [wordEntry, hd] using he

/-- A Sweep that starts has a Step and is at its first (log 25). -/
theorem State.AtStart.sweep {s : State} {t : Nat} (h : s.AtStart (.sweep t)) :
    s.cfg.sweepHalf ≠ 0 ∧ s.AtLoop t := by
  obtain ⟨-, ht, w, e, -, hd, he, hp, hc⟩ := h
  obtain ⟨hne, rfl⟩ := wordEntry_sweep hd he
  exact ⟨hne, atLoop_of_start ht hc hp⟩

/-- An Alternate that starts has a Step and is at its first (log 25). -/
theorem State.AtStart.alternate {s : State} {t : Nat} (h : s.AtStart (.alternate t)) :
    s.cfg.altSteps ≠ 0 ∧ s.AtLoop t := by
  obtain ⟨-, ht, w, e, -, hd, he, hp, hc⟩ := h
  obtain ⟨hne, rfl⟩ := wordEntry_alternate hd he
  exact ⟨hne, atLoop_of_start ht hc hp⟩

/-- The bits of Sweep, index by index. -/
theorem map_range_sweepBits (c : Config) :
    (List.range (2 * c.sweepHalf)).map (fun k => decide (k < c.sweepHalf)) = sweepBits c := by
  rw [two_mul, List.range_add, List.map_append, sweepBits]
  congr 1 <;> rw [List.eq_replicate_iff] <;> simp +contextual

/-- Settles O38: Sweep is one loop, and its word is over after the last Step. -/
theorem sweepRuns : Obligations.SweepRuns := by
  intro s t h
  obtain ⟨hr, hc⟩ := h.current
  obtain ⟨hne, hs⟩ := h.sweep
  have hrun := (inLoop_sweep hr hc).runs_loop hs (by omega) (map_range_sweepBits s.cfg)
  rw [endWord_atStep, State.steps, length_sweepBits] at hrun
  exact hrun

/-- Settles O40: Alternate is one loop, and its word is over after the last Step. -/
theorem alternateRuns : Obligations.AlternateRuns := by
  intro s t h
  obtain ⟨hr, hc⟩ := h.current
  obtain ⟨hne, hs⟩ := h.alternate
  have hrun := (inLoop_alternate hr hc).runs_loop hs hne (vs := alternateBits s.cfg) rfl
  rw [endWord_atStep, State.steps, length_alternateBits] at hrun
  exact hrun

end Sys2Proof.Machine
end

section
/-! The whole RandomRun (42_patternengine.md R139 to R143): the Draws, the segments of a repetition, the repetitions and
the flush. -/

namespace Sys2Proof.Machine

/-! ### The bits of a segment -/

/-- The bits of one segment of a repetition (42_patternengine.md R139, R140). -/
def segmentBits (c1 c2 : Nat) : Seg → List Level
  | .on1 => List.replicate (c1 + 1) true
  | .off => List.replicate (c2 + 1) false
  | .on2 => List.replicate (c1 + 1) true

/-- The bits of `n` repetitions. -/
def repetitionsBits (n c1 c2 : Nat) : List Level := (List.replicate n (repetitionBits c1 c2)).flatten

theorem repetitionBits_eq (c1 c2 : Nat) :
    repetitionBits c1 c2 = (segmentBits c1 c2 .on1 ++ segmentBits c1 c2 .off) ++ segmentBits c1 c2 .on2 := rfl

theorem repetitionsBits_one (c1 c2 : Nat) : repetitionsBits 1 c1 c2 = repetitionBits c1 c2 := by
  simp [repetitionsBits]

theorem repetitionsBits_succ (n c1 c2 : Nat) :
    repetitionsBits (n + 1) c1 c2 = repetitionBits c1 c2 ++ repetitionsBits n c1 c2 := rfl

/-! ### Segments and repetitions -/

/-- A RandomRun with delay `t` runs whose Draws gave the counts `c1` and `c2`. -/
structure State.Drawn (s : State) (t c1 c2 : Nat) : Prop where
  reset : s.rstIn = []
  current : s.current = some (.randomRun t)
  timer : s.timer = 0
  tCur : s.tCur = .is t
  countOn : s.countOn = .is c1
  countOff : s.countOff = .is c2

/-- The position moved to the start of segment `g` of repetition `n` (10_state.md R30). -/
def State.atSegment (s : State) (n : Nat) (g : Seg) : State :=
  { s with pos := ⟨s.pos.list, s.pos.widx, .body, n, g, 0, .act, 0⟩ }

/-- The position moved to the start of the flush (10_state.md R30). -/
def State.atFlush (s : State) : State :=
  { s with pos := { s.pos with gph := .flush, cyc := 0, seg := .on1, k := 0, sph := .act, u := 0 } }

/-- What follows the flush and the segments does not depend on the place inside the loop that is done. -/
theorem enterFlush_atStep (s : State) (k : Nat) (p : Sph) : (s.atStep k p).enterFlush = s.enterFlush := by
  unfold State.enterFlush
  rw [endWord_atStep]
  rfl

theorem nextSeg_atStep (s : State) (k : Nat) (p : Sph) : (s.atStep k p).nextSeg = s.nextSeg := by
  unfold State.nextSeg
  rw [enterFlush_atStep]
  rfl

section
variable {s : State} {t c1 c2 : Nat} (h : s.Drawn t c1 c2)
include h

theorem State.Drawn.steps (vs : List Level) : (s.steps t vs).Drawn t c1 c2 := { h with }

/-- The bits of a segment, index by index. -/
theorem State.Drawn.map_range_segmentBits (n : Nat) (g : Seg) :
    (List.range ((s.atSegment n g).segCount + 1)).map (fun _ => decide (g ≠ .off)) = segmentBits c1 c2 g := by
  have count (m : Nat) (hm : (s.atSegment n g).segCount = m) (b : Level) :
      (List.range ((s.atSegment n g).segCount + 1)).map (fun _ => b) = List.replicate (m + 1) b := by
    rw [List.map_const', List.length_range, hm]
  cases g with
  | on1 | on2 => exact count c1 (segCount_eq (fun hg => by cases hg) fun _ => h.countOn) true
  | off => exact count c2 (segCount_eq (fun _ => h.countOff) fun hg => absurd rfl hg) false

/-- A whole segment. -/
theorem State.Drawn.runs_segment (n : Nat) (g : Seg) :
    runs ((segmentBits c1 c2 g).length * stepCost s.cfg t) (s.atSegment n g) =
      .next (State.nextSeg ((s.steps t (segmentBits c1 c2 g)).atSegment n g)) := by
  have hloop : (s.atSegment n g).AtLoop t := ⟨h.timer, h.tCur, rfl, rfl, rfl⟩
  have hrun := (inLoop_segment (s := s.atSegment n g) h.reset h.current rfl).runs_loop hloop (Nat.succ_ne_zero _)
    (h.map_range_segmentBits n g)
  rw [nextSeg_atStep] at hrun
  exact hrun

/-- A whole repetition (42_patternengine.md R140). -/
theorem State.Drawn.runs_repetition (n : Nat) :
    runs ((repetitionBits c1 c2).length * stepCost s.cfg t) (s.atSegment n .on1) =
      .next (State.nextSeg ((s.steps t (repetitionBits c1 c2)).atSegment n .on2)) := by
  have on1 := h.runs_segment n .on1
  have off := (h.steps (segmentBits c1 c2 .on1)).runs_segment n .off
  have on2 := (h.steps (segmentBits c1 c2 .on1 ++ segmentBits c1 c2 .off)).runs_segment n .on2
  rw [steps_append] at off on2
  rw [repetitionBits_eq, runs_bits_append ((runs_bits_append on1).trans off)]
  exact on2

/-- The rest of the repetitions, `m + 1` of them (42_patternengine.md R139). -/
theorem State.Drawn.runs_repetitions {n m : Nat} (hm : n + m = s.cfg.rrCycles) :
    runs ((repetitionsBits (m + 1) c1 c2).length * stepCost s.cfg t) (s.atSegment n .on1) =
      .next (State.enterFlush ((s.steps t (repetitionsBits (m + 1) c1 c2)).atSegment (n + m) .on2)) := by
  induction m generalizing s n with
  | zero =>
    rw [repetitionsBits_one]
    exact (h.runs_repetition n).trans (congrArg _ (if_neg (Nat.not_lt.mpr hm.ge)))
  | succ m ih =>
    have hlt : n < s.cfg.rrCycles := by omega
    have hnext := (h.runs_repetition n).trans (congrArg _ (if_pos hlt))
    have hrest := ih (h.steps (repetitionBits c1 c2)) (show n + 1 + m = s.cfg.rrCycles by omega)
    rw [steps_append] at hrest
    rw [repetitionsBits_succ, runs_bits_append hnext, show n + (m + 1) = n + 1 + m by omega]
    exact hrest

/-- The flush, if it has a Step, and the end of the word (42_patternengine.md R142; log 25). -/
theorem State.Drawn.runs_flush : runs ((List.replicate s.cfg.rrFlush false).length * stepCost s.cfg t) s.enterFlush =
    .next (s.steps t (List.replicate s.cfg.rrFlush false)).endWord := by
  unfold State.enterFlush
  split
  · next h0 => rw [h0, List.replicate_zero, steps_nil, List.length_nil, Nat.zero_mul, runs_zero]
  · next hne =>
    have hbits : (List.range s.cfg.rrFlush).map (fun _ => false) = List.replicate s.cfg.rrFlush false := by simp
    have hrun := (inLoop_flush (s := s.atFlush) h.reset h.current rfl).runs_loop
      ⟨h.timer, h.tCur, rfl, rfl, rfl⟩ hne hbits
    rw [endWord_atStep] at hrun
    exact hrun.trans (congrArg _ (endWord_congr_pos (s := s.steps t _) rfl rfl))

/-- The word from its body on (42_patternengine.md R139). -/
theorem State.Drawn.runs_body : runs ((randomRunBits s.cfg c1 c2).length * stepCost s.cfg t) (s.atSegment 0 .on1) =
    .next (s.steps t (randomRunBits s.cfg c1 c2)).endWord := by
  have hreps := h.runs_repetitions (Nat.zero_add s.cfg.rrCycles)
  have hlast : State.Drawn ((s.steps t (repetitionsBits (s.cfg.rrCycles + 1) c1 c2)).atSegment
    (0 + s.cfg.rrCycles) .on2) t c1 c2 := { h with }
  have hbits : randomRunBits s.cfg c1 c2 =
    repetitionsBits (s.cfg.rrCycles + 1) c1 c2 ++ List.replicate s.cfg.rrFlush false := rfl
  rw [hbits, runs_bits_append hreps, ← steps_append]
  exact hlast.runs_flush.trans (congrArg _ (endWord_congr_pos (s := (s.steps t _).steps t _) rfl rfl))

end

/-! ### The whole word -/

/-- The state after the first Draw gave `x` and left `xs` (42_patternengine.md R139, R141). -/
def State.drawnOn (s : State) (x : Draw) (xs : List Draw) : State :=
  { s with
    rndIn := xs, trace := s.trace ++ [.draw x], countOn := .is (drawCount s.cfg x)
    pos := { s.pos with gph := .drawOff } }

/-- The state after the second Draw gave `x` and left `xs`: the first repetition comes next
(42_patternengine.md R139). -/
def State.drawnOff (s : State) (x : Draw) (xs : List Draw) : State :=
  State.atSegment { s with rndIn := xs, trace := s.trace ++ [.draw x], countOff := .is (drawCount s.cfg x) } 0 .on1

section
variable {s : State} {t : Nat} {x : Draw} {xs : List Draw} (hr : s.rstIn = []) (hc : s.current = some (.randomRun t))
  (ht : s.timer = 0) (hx : s.rndIn = x :: xs)
include hr hc ht hx

theorem runs_drawOn (hg : s.pos.gph = .drawOn) : runs 1 s = .next (s.drawnOn x xs) := by
  obtain ⟨first, -⟩ := randomRunDraws s t ht
  exact runs_one ((step_of_current hr hc).trans (first x xs hg hx))

theorem runs_drawOff (hg : s.pos.gph = .drawOff) : runs 1 s = .next (s.drawnOff x xs) := by
  obtain ⟨-, second, -⟩ := randomRunDraws s t ht
  exact runs_one ((step_of_current hr hc).trans (second x xs hg hx))

end

/-- The state with both Draws made, but for the position. -/
def State.withDraws (s : State) (x1 x2 : Draw) (xs : List Draw) : State :=
  { s with
    rndIn := xs
    trace := s.trace ++ [.draw x1] ++ [.draw x2]
    countOn := .is (drawCount s.cfg x1)
    countOff := .is (drawCount s.cfg x2) }

theorem wordEntry_randomRun {c : Config} {w : OpWord} {e : Gph × OrUnknown Nat} {t : Nat}
    (hd : decodeWord w = .ok (.randomRun t)) (he : wordEntry c w = some e) : (.drawOn, .is t) = e := by
  simpa [wordEntry, hd] using he

/-- A RandomRun starts at its first Draw (42_patternengine.md R139). -/
theorem State.AtStart.drawOn {s : State} {t : Nat} (h : s.AtStart (.randomRun t)) :
    s.timer = 0 ∧ s.tCur = .is t ∧ s.pos.gph = .drawOn := by
  obtain ⟨-, ht, w, e, -, hd, he, hp, hc⟩ := h
  obtain rfl := wordEntry_randomRun hd he
  exact ⟨ht, hc, by rw [hp]⟩

section
variable {s : State} {t : Nat} {x1 x2 : Draw} {xs : List Draw} (h : s.AtStart (.randomRun t))
  (hx : s.rndIn = x1 :: x2 :: xs)
include h

theorem State.AtStart.drawn : (s.withDraws x1 x2 xs).Drawn t (drawCount s.cfg x1) (drawCount s.cfg x2) := by
  obtain ⟨hr, hcur⟩ := h.current
  obtain ⟨ht, hc, -⟩ := h.drawOn
  exact ⟨hr, hcur, ht, hc, rfl, rfl⟩

include hx

/-- The two Draws lead to the first repetition (42_patternengine.md R141). -/
theorem State.AtStart.runs_draws : runs 2 s = .next ((s.withDraws x1 x2 xs).atSegment 0 .on1) := by
  obtain ⟨hr, hcur⟩ := h.current
  obtain ⟨ht, -, hg⟩ := h.drawOn
  have first := runs_drawOn hr hcur ht hx hg
  exact (runs_add 1 1 first).trans (runs_drawOff (s := s.drawnOn x1 (x2 :: xs)) hr hcur ht rfl rfl)

/-- The whole word: two steps for the Draws, then its Steps. -/
theorem State.AtStart.runs_randomRun :
    runs (2 + (randomRunBits s.cfg (drawCount s.cfg x1) (drawCount s.cfg x2)).length * stepCost s.cfg t) s =
      .next ((s.withDraws x1 x2 xs).steps t (randomRunBits s.cfg (drawCount s.cfg x1) (drawCount s.cfg x2))).endWord :=
  (runs_add _ _ (h.runs_draws hx)).trans h.drawn.runs_body

end

theorem steps_withDraws (s : State) (t : Nat) (x1 x2 : Draw) (xs : List Draw) (vs : List Level) :
    (s.withDraws x1 x2 xs).steps t vs =
      { s.performed (s.board.afterSteps vs) ([.draw x1, .draw x2] ++ stepsTrace s.cfg t vs)
          (vs.length * stepTime s.cfg t) with
        rndIn := xs, countOn := .is (drawCount s.cfg x1), countOff := .is (drawCount s.cfg x2) } := by
  simp [State.steps, State.performed, State.withDraws, State.board]

/-- Settles O41: the Draws, the repetitions and the flush, one after the other. -/
theorem randomRunRuns : Obligations.RandomRunRuns := by
  rintro s t x1 x2 xs h hx _ _ rfl rfl
  have hrun := h.runs_randomRun hx
  rw [steps_withDraws] at hrun
  exact hrun

/-- Under the default structural parameters a RandomRun has `8*c1 + 4*c2 + 20` Steps (42_patternengine.md R143). -/
theorem length_randomRunBits_default {c : Config} (hc : c.rrCycles = 3) (hf : c.rrFlush = 8) (c1 c2 : Nat) :
    (randomRunBits c c1 c2).length = 8 * c1 + 4 * c2 + 20 := by
  rw [length_randomRunBits, hc, hf]
  omega

/-- With delays of 1 ms a Step lasts `6 + t` ms (42_patternengine.md R130). -/
theorem stepTime_default {c : Config} (hu : c.tUnit = 1) (hh : c.tHold = 1) (t : Nat) : stepTime c t = 6 + t := by
  rw [stepTime, hu, hh]

/-- Settles O42: the sizes of the run of O41. -/
theorem randomRunSize : Obligations.RandomRunSize := by
  rintro s t c1 c2 n x1 x2 xs h hm hb hcyc hfl hu hh hx h1 h2 hn
  have hc1 : drawCount s.cfg x1 = c1 := by rw [drawCount, hm, hb, h1]
  have hc2 : drawCount s.cfg x2 = c2 := by rw [drawCount, hm, hb, h2]
  have hlen : (randomRunBits s.cfg c1 c2).length = n := by rw [length_randomRunBits_default hcyc hfl, hn]
  have htime := stepTime_default hu hh t
  have hcost : stepCost s.cfg t = 19 + t := by rw [stepCost, htime]; omega
  have hrun := h.runs_randomRun hx
  rw [hc1, hc2, hlen, hcost] at hrun
  obtain ⟨ht, -, -⟩ := h.drawOn
  refine ⟨_, hrun, rfl, rfl, rfl, rfl, ht, rfl, congrArg _ hc1, congrArg _ hc2, ?_, ?_⟩
  · have htrace : (s.withDraws x1 x2 xs).trace.length = s.trace.length + 2 := by simp [State.withDraws]
    rw [length_trace_steps, hlen, htrace]
  · rw [elapsed_steps, hlen, ← htime]
    rfl

end Sys2Proof.Machine
end

section
/-! The register after a Sweep (42_patternengine.md R132, 20_memory.md R62, R63): once a Step has left both clocks low
and while SRCLR is high, each Step shifts its bit in and stores it, and enough zeros clear both stages. -/

namespace Sys2Proof.Machine

/-! ### Shifting one bit over and over -/

/-- What `n` shifts of the bit `b` leave in a stage. -/
def Stage.shifted (n : Nat) (b : OrUnknown Level) (a : Stage) : Stage := (List.replicate n b ++ a).take a.length

theorem shifted_one (b : OrUnknown Level) (a : Stage) : a.shifted 1 b = a.shift b := by
  rw [Stage.shift, List.dropLast_eq_take]
  rfl

theorem shift_shifted (n : Nat) (b : OrUnknown Level) (a : Stage) : (a.shifted n b).shift b = a.shifted (n + 1) b := by
  unfold Stage.shift Stage.shifted
  rw [List.dropLast_eq_take, List.replicate_succ, List.length_cons, List.length_take, List.length_append]
  cases a with
  | nil => simp
  | cons x a => simp [List.take_take]

/-- As many zeros as a stage is wide clear it. -/
theorem shifted_zero {n : Nat} {a : Stage} (h : a.length ≤ n) : a.shifted n (.is false) = Stage.zero a.length := by
  rw [Stage.shifted, List.take_append_of_le_length (by simpa using h), List.take_replicate, Nat.min_eq_left h]
  rfl

/-! ### The board after Steps -/

theorem afterSteps_append (b : Board) (vs ws : List Level) :
    b.afterSteps (vs ++ ws) = (b.afterSteps vs).afterSteps ws := List.foldl_append

/-- The pins a Step leaves: SER and both clocks low (42_patternengine.md R130). -/
def restPins (p : PerRole (OrUnknown Level)) : PerRole (OrUnknown Level) :=
  { p with ser := .is false, rclk := .is false, srclk := .is false }

theorem afterSteps_pins (b : Board) (n : Nat) (v : Level) :
    (b.afterSteps (List.replicate (n + 1) v)).1 = restPins b.1 := by
  induction n generalizing b with
  | zero => rfl
  | succ n ih =>
    rw [List.replicate_succ]
    exact ih _

theorem afterSteps_length_sh (b : Board) (vs : List Level) : (b.afterSteps vs).2.sh.length = b.2.sh.length := by
  induction vs generalizing b with
  | nil => rfl
  | cons v vs ih => exact (ih _).trans (by simp [Board.afterShift, Board.afterLatch])

/-- The pins with both clocks low and SRCLR high: every write of SRCLK and RCLK high is an edge that shifts or
stores. -/
structure Clocked (p : PerRole (OrUnknown Level)) : Prop where
  srclk : p.srclk = .is false
  rclk : p.rclk = .is false
  srclr : p.srclr = .is true

/-- Then a Step shifts its bit in and stores the shift stage (20_memory.md R62). -/
theorem Clocked.ext_of_step {b : Board} (h : Clocked b.1) (v : Level) :
    (b.afterSteps [v]).2 = ⟨b.2.sh.shift (.is v), b.2.sh.shift (.is v)⟩ := by
  obtain ⟨-, -, edge, -⟩ := externalRegisterReacts b.2 { b.1 with ser := .is v } true
  have hshift : (b.afterShift v).2 = ⟨b.2.sh.shift (.is v), b.2.st⟩ := edge h.srclk h.srclr
  have hlatch : (b.afterShift v).afterLatch.2 = ⟨(b.afterShift v).2.sh, (b.afterShift v).2.sh⟩ :=
    ExtReg.react_rclk_of_low _ h.rclk
  rw [hshift] at hlatch
  exact hlatch

theorem Clocked.ext_of_replicate {b : Board} (h : Clocked b.1) (v : Level) (n : Nat) :
    (b.afterSteps (List.replicate (n + 1) v)).2 =
      ⟨b.2.sh.shifted (n + 1) (.is v), b.2.sh.shifted (n + 1) (.is v)⟩ := by
  induction n with
  | zero => rw [Nat.zero_add, shifted_one, List.replicate_one, h.ext_of_step]
  | succ n ih =>
    have h' : Clocked (b.afterSteps (List.replicate (n + 1) v)).1 := by
      rw [afterSteps_pins]
      exact ⟨rfl, rfl, h.srclr⟩
    rw [List.replicate_succ', afterSteps_append, h'.ext_of_step, ih, shift_shifted]

/-- After the bits of Sweep, at least as many zeros as a stage is wide, with SRCLR high both stages are zero, whatever
they and the clocks were (20_memory.md R63). -/
theorem ext_of_sweepBits {c : Config} {b : Board} (hne : c.sweepHalf ≠ 0) (hc : b.1.srclr = .is true)
    (hw : b.2.sh.length ≤ c.sweepHalf) : (b.afterSteps (sweepBits c)).2 =
      ⟨Stage.zero b.2.sh.length, Stage.zero b.2.sh.length⟩ := by
  obtain ⟨n, hn⟩ := Nat.exists_eq_succ_of_ne_zero hne
  have hfirst : Clocked (b.afterSteps (List.replicate (n + 1) true)).1 := by
    rw [afterSteps_pins]
    exact ⟨rfl, rfl, hc⟩
  have hlen := afterSteps_length_sh b (List.replicate (n + 1) true)
  rw [sweepBits, afterSteps_append, hn, hfirst.ext_of_replicate, shifted_zero (by omega), hlen]

theorem pins_of_sweepBits {c : Config} (hne : c.sweepHalf ≠ 0) (b : Board) :
    (b.afterSteps (sweepBits c)).1 = restPins b.1 := by
  obtain ⟨n, hn⟩ := Nat.exists_eq_succ_of_ne_zero hne
  rw [sweepBits, afterSteps_append, hn, afterSteps_pins, afterSteps_pins]
  rfl

/-- Settles O39: the state of O38, its pins and register those of Sweep's bits. -/
theorem sweepEndsAllZero : Obligations.SweepEndsAllZero := by
  intro s t h hclr hhalf hsh _
  obtain ⟨hne, hs⟩ := h.sweep
  have hext := ext_of_sweepBits (b := s.board) hne hclr (hsh.trans_le hhalf)
  have hpins := pins_of_sweepBits hne s.board
  rw [show s.board.2.sh.length = s.cfg.regWidth from hsh] at hext
  refine ⟨_, sweepRuns s t h, rfl, rfl, rfl, rfl, hs.timer, hext, ?_, rfl, rfl, fun hcfg => ⟨?_, ?_⟩⟩
  · rw [restPins, show s.board.1.srclr = .is true from hclr] at hpins
    exact hpins
  · have hhalf : s.cfg.sweepHalf = 8 := by rw [hcfg]; rfl
    simp [State.performed, hhalf]
  · have htime := stepTime_default (c := s.cfg) (by rw [hcfg]; rfl) (by rw [hcfg]; rfl) t
    rw [← htime, hcfg]
    rfl

end Sys2Proof.Machine
end

section
/-! The events at a TakeEvent (43_modecontroller.md R160, R162, R168, R175 to R178): how the block takes one, what
each of the four does in each mode, and the end of a run by Back in TopMenu. -/

namespace Sys2Proof.Machine

/-! ### Taking an event -/

/-- With a low level of `rst` lined up a step is a step of the sequencer once that level is consumed (log 7). -/
theorem step_of_rstIn_false {s : State} {rs : List Bool} (h : s.rstIn = false :: rs) :
    step s = seqStep { s with rstIn := rs } := by
  simp only [step, h]

theorem seqStep_event {s : State} {c : EvCode} {cs : List EvCode} (hr : s.evReady = true) (he : s.evIn = c :: cs) :
    seqStep s = exec (decodeEvent c) { s with evIn := cs } := by
  simp only [seqStep, (next_takeEvent_iff s).mpr hr, takeEvent, he]

/-- At a TakeEvent with a code on the port a step is that event, taken off the port (43_modecontroller.md R162). -/
theorem step_event {s : State} {c : EvCode} {cs : List EvCode} (hn : s.rstIn = []) (hr : s.evReady = true)
    (he : s.evIn = c :: cs) : step s = exec (decodeEvent c) { s with evIn := cs } := by
  rw [step_of_rstIn_nil hn, seqStep_event hr he]

/-- At a TakeEvent with nothing on the port a step leaves the state as it was (43_modecontroller.md R162). -/
theorem step_noEvent {s : State} (hn : s.rstIn = []) (hr : s.evReady = true) (he : s.evIn = []) : step s = .next s := by
  simp only [step_of_rstIn_nil hn, seqStep, (next_takeEvent_iff s).mpr hr, takeEvent, he]

/-- Settles O6, a word and an event each with and without a low level of `rst` to consume. -/
theorem stepRunsTheDecodedInstruction : Obligations.StepRunsTheDecodedInstruction := by
  refine ⟨fun s w i hw hd => ⟨fun hn => step_word hn hw hd, fun rs hn => ?_⟩,
    fun s c cs i hr he hd => ⟨fun hn => ?_, fun rs hn => ?_⟩⟩
  · rw [step_of_rstIn_false hn]
    exact seqStep_word (s := { s with rstIn := rs }) hw hd
  · cases hd
    exact step_event hn hr he
  · cases hd
    rw [step_of_rstIn_false hn]
    exact seqStep_event (s := { s with rstIn := rs }) hr he

/-- Settles O7, by induction on the number of steps. -/
theorem waitsForEverWithoutEvent : Obligations.WaitsForEverWithoutEvent := by
  intro s n hn hr he
  induction n with
  | zero => rfl
  | succ n ih => rw [runs_succ_of_step (step_noEvent hn hr he), ih]

/-! ### The events by mode -/

section
variable {s : State} (hr : s.evReady = true) (e : Event) {mode : Fsm} {inManual inImmediate : ListName}
include hr

/-- In TopMenu a selection other than Auto's only enters its mode (43_modecontroller.md R160). -/
theorem select_topMenu (hf : s.fsm = .topMenu) (hm : mode ≠ .auto) :
    s.select e mode inManual inImmediate = { s.emit (.event e) with fsm := mode } := by
  simp only [State.select, hr, hf, hm, if_true, if_false]

/-- In TopMenu the selection of Auto starts SCRIPT as well (43_modecontroller.md R160, R170). -/
theorem select_topMenu_auto (hf : s.fsm = .topMenu) : s.select e .auto inManual inImmediate =
    State.startList { s.emit (.event e) with fsm := .auto } .script := by
  simp only [State.select, hr, hf, if_true]

/-- In Manual a selection starts its Manual list (43_modecontroller.md R161, R165). -/
theorem select_manual (hf : s.fsm = .manual) :
    s.select e mode inManual inImmediate = (s.emit (.event e)).startList inManual := by
  simp only [State.select, hr, hf, if_true]

/-- In Immediate a selection starts its Immediate list (43_modecontroller.md R161, R167). -/
theorem select_immediate (hf : s.fsm = .immediate) :
    s.select e mode inManual inImmediate = (s.emit (.event e)).startList inImmediate := by
  simp only [State.select, hr, hf, if_true]

/-- Back returns Manual and Immediate to TopMenu (43_modecontroller.md R168). -/
theorem cancel_mode (hf : s.fsm = .manual ∨ s.fsm = .immediate) :
    s.cancel = { s.emit (.event .back) with fsm := .topMenu } := by
  rcases hf with hf | hf <;> simp only [State.cancel, hr, hf, if_true]

/-- Back in TopMenu leads to Exit, which owes its farewell (43_modecontroller.md R168, R175; log 3). -/
theorem cancel_topMenu (hf : s.fsm = .topMenu) :
    s.cancel = { s.emit (.event .back) with fsm := .exit, owed := true } := by
  simp only [State.cancel, hr, hf, if_true]

end

/-- A list whose first word has a micro-event starts there (43_modecontroller.md R172, R173). -/
theorem startList_of_wordEntry {s : State} {l : ListName} {w : OpWord} {ws : List OpWord} {e : Gph × OrUnknown Nat}
    (hl : listWords s.cfg l = w :: ws) (he : wordEntry s.cfg w = some e) :
    s.startList l = { s with pos := { Pos.rest with list := l, gph := e.1 }, tCur := e.2 } := by
  rw [State.startList, hl, enterFrom_cons_of_wordEntry he]
  rfl

theorem wordEntry_actionWord (c : Config) (a : Action) : wordEntry c a.word = some (.body, .unknown) := by
  cases a <;> rfl

/-- A list that begins with an Action starts at rest but for its name, `t_cur` unknown (10_state.md R26, R30). -/
theorem startList_of_action {s : State} {l : ListName} {a : Action} {ws : List OpWord}
    (hl : listWords s.cfg l = a.word :: ws) :
    s.startList l = { s with pos := { Pos.rest with list := l }, tCur := .unknown } :=
  startList_of_wordEntry hl (wordEntry_actionWord s.cfg a)

/-- An empty list is over at once (42_patternengine.md R149). -/
theorem startList_of_nil {s : State} {l : ListName} (hl : listWords s.cfg l = []) : s.startList l = s.leaveList := by
  rw [State.startList, hl]
  rfl

/-- Settles O18: the modes one by one, both lists beginning with an Action. -/
theorem leftSelects : Obligations.LeftSelects := by
  refine fun s hr => ⟨fun hf => ?_, fun hf => ?_, fun hf => ?_, rfl, rfl⟩ <;>
    refine congrArg Host.Outcome.next ?_
  · exact select_topMenu hr .left hf (by decide)
  · exact (select_manual hr .left hf).trans (startList_of_action (a := .shiftZero) rfl)
  · exact (select_immediate hr .left hf).trans (startList_of_action (a := .shiftZero) rfl)

/-- Settles O20: the modes one by one, both lists beginning with an Action. -/
theorem rightSelects : Obligations.RightSelects := by
  refine fun s hr => ⟨fun hf => ?_, fun hf => ?_, fun hf => ?_, rfl, rfl⟩ <;>
    refine congrArg Host.Outcome.next ?_
  · exact select_topMenu hr .right hf (by decide)
  · exact (select_manual hr .right hf).trans (startList_of_action (a := .shiftOne) rfl)
  · exact (select_immediate hr .right hf).trans (startList_of_action (a := .shiftOne) rfl)

/-- Settles O19: the modes one by one, SCRIPT by its first word or its being empty. -/
theorem centerSelects : Obligations.CenterSelects := by
  refine fun s hr => ⟨fun hf => ?_, fun w ws e hf hs he => ?_, fun hf hs => ?_, fun hf => ?_, fun hf => ?_, rfl, rfl,
    rfl⟩ <;> refine congrArg Host.Outcome.next ?_
  · exact select_topMenu_auto hr .center hf
  · exact (select_topMenu_auto hr .center hf).trans (startList_of_wordEntry hs he)
  · exact (select_topMenu_auto hr .center hf).trans (startList_of_nil hs)
  · exact (select_manual hr .center hf).trans (startList_of_action (a := .latch) rfl)
  · exact (select_immediate hr .center hf).trans (startList_of_action (a := .clearRegister) rfl)

/-- Settles O21, from what Back does in each mode. -/
theorem backCancels : Obligations.BackCancels := fun _ hr =>
  ⟨fun hf => congrArg _ (cancel_mode hr hf), fun hf => congrArg _ (cancel_topMenu hr hf)⟩

/-! ### The end of a run -/

/-- Nothing follows the last micro-event of a terminal state (log 14). -/
theorem runs_terminal_stopped {s : State} (hf : s.fsm = .exit ∨ s.fsm = .panic) (hn : s.rstIn = [])
    (ho : s.owed = false) (n : Nat) : runs (n + 1) s = .fault (if s.fsm = .panic then .panicked else .exited) := by
  rw [runs_succ, step_terminal_stopped hf hn ho]

/-- Settles O22: Back in TopMenu, then the farewell owed, then the stop of a terminal state that owes nothing. -/
theorem exitSaysFarewellAndStops : Obligations.ExitSaysFarewellAndStops := by
  intro s cs hn hf hr he
  obtain ⟨-, hback⟩ := backCancels { s with evIn := cs } hr
  have first := (step_event hn hr he).trans (hback hf)
  have second := step_terminal_owed
    (s := { s with evIn := cs, trace := s.trace ++ [.event .back], fsm := .exit, owed := true }) (.inl rfl) hn rfl
  rw [emitLast_exit rfl] at second
  have both := (runs_add 1 1 (runs_one first)).trans (runs_one second)
  refine ⟨_, both, by simp, rfl, rfl, rfl, rfl, rfl, rfl, fun n => ?_⟩
  rw [show n + 3 = 2 + (n + 1) by omega, runs_add 2 _ both]
  refine runs_terminal_stopped ?_ ?_ ?_ n
  · exact .inl rfl
  · exact hn
  · rfl

end Sys2Proof.Machine
end

section
/-! The end of a word and of a list (43_modecontroller.md R172), and lists run whole: a list of Actions step by step, as
the dispatch lists of Manual and Immediate are (R165, R167). -/

namespace Sys2Proof.Machine

/-! ### The end of a word -/

/-- A word is done and the next one has a micro-event: it starts there (43_modecontroller.md R172). -/
theorem endWord_of_wordEntry {s : State} {w : OpWord} {e : Gph × OrUnknown Nat}
    (hw : (listWords s.cfg s.pos.list)[s.pos.widx + 1]? = some w) (he : wordEntry s.cfg w = some e) :
    s.endWord = { s with
      pos := { Pos.rest with list := s.pos.list, widx := s.pos.widx + 1, gph := e.1 }, tCur := e.2 } := by
  obtain ⟨hlt, hget⟩ := List.getElem?_eq_some_iff.mp hw
  rw [State.endWord, List.drop_eq_getElem_cons hlt, hget, enterFrom_cons_of_wordEntry he]

/-- The last word of a list is done (43_modecontroller.md R172). -/
theorem endWord_of_last {s : State} (h : (listWords s.cfg s.pos.list).length ≤ s.pos.widx + 1) :
    s.endWord = s.leaveList := by
  rw [State.endWord, List.drop_eq_nil_of_le h]
  rfl

/-- The end of a list takes Boot and Auto to TopMenu (43_modecontroller.md R170). -/
theorem leaveList_of_auto_or_boot {s : State} (hf : s.fsm = .auto ∨ s.fsm = .boot) :
    s.leaveList = { s with pos := Pos.rest, tCur := .unknown, fsm := .topMenu } := by
  rcases hf with hf | hf <;> simp only [State.leaveList, hf]

/-- The modes that take events stay (43_modecontroller.md R172). -/
theorem leaveList_of_manual_or_immediate {s : State} (hf : s.fsm = .manual ∨ s.fsm = .immediate) :
    s.leaveList = { s with pos := Pos.rest, tCur := .unknown } := by
  rcases hf with hf | hf <;> simp only [State.leaveList, hf]

/-- Settles O44: the next word, or the end of the list by mode. -/
theorem wordEndMovesOn : Obligations.WordEndMovesOn :=
  ⟨fun _ _ _ hw he => endWord_of_wordEntry hw he, fun _ hlast =>
    ⟨fun hf => (endWord_of_last hlast).trans (leaveList_of_auto_or_boot hf),
      fun hf => (endWord_of_last hlast).trans (leaveList_of_manual_or_immediate hf)⟩⟩

/-! ### The start of a word of a list -/

/-- The list `l` may run in the state, whose inits are done, with no Wait in progress and no reset to come. -/
structure State.ListReady (s : State) (l : ListName) : Prop where
  reset : s.rstIn = []
  timer : s.timer = 0
  inits : s.init = allInit
  lists : s.fsm.mayRun l = true

/-- The state before the first micro-event of word `n` of list `l`, whose entry is `e` (10_state.md R26, R30). -/
def State.atWord (s : State) (l : ListName) (n : Nat) (e : Gph × OrUnknown Nat) : State :=
  { s with pos := { Pos.rest with list := l, widx := n, gph := e.1 }, tCur := e.2 }

/-- Entering a list forgets the position and `t_cur` (43_modecontroller.md R172). -/
theorem enterFrom_atWord (s : State) (k : ListName) (m : Nat) (e : Gph × OrUnknown Nat) (l : ListName)
    (ws : List OpWord) (n : Nat) : (s.atWord k m e).enterFrom l ws n = s.enterFrom l ws n := by
  induction ws generalizing n with
  | nil => rfl
  | cons w ws ih =>
    simp only [State.enterFrom, ih]
    rfl

/-- The end of a word enters the rest of its list. -/
theorem endWord_atWord (s : State) (l : ListName) (n : Nat) (e : Gph × OrUnknown Nat) :
    (s.atWord l n e).endWord = s.enterFrom l ((listWords s.cfg l).drop (n + 1)) (n + 1) :=
  enterFrom_atWord ..

theorem State.ListReady.atStart {s : State} {l : ListName} (h : s.ListReady l) {n : Nat} {w : OpWord} {i : Instr}
    {e : Gph × OrUnknown Nat} (hw : (listWords s.cfg l)[n]? = some w) (hd : decodeWord w = .ok i)
    (he : wordEntry s.cfg w = some e) : (s.atWord l n e).AtStart i := by
  have hl : l ≠ .none := fun hl => by simp [hl, listWords] at hw
  have hnext : (s.atWord l n e).next = .word w := by
    rw [next_of_mayRun (s := s.atWord l n e) h.lists hl fun _ => nextInit_eq_none_iff.mpr h.inits]
    exact fetchWord_eq_word.mpr hw
  exact ⟨h.reset, h.timer, w, e, hnext, hd, he, rfl, rfl⟩

/-! ### A list of Actions -/

theorem perform_nil (s : State) : s.perform [] = s := by simp [State.perform, State.performed, State.board, waitSum]

theorem stepsOf_append (ms ns : List Micro) : stepsOf (ms ++ ns) = stepsOf ms + stepsOf ns := by
  simp only [stepsOf, List.map_append, List.length_append, waitSum_append]
  omega

/-- What micro-operations take, if they last `d` ms. -/
theorem stepsOf_of_performed {s : State} {ms : List Micro} {b : Board} {es : List TraceEvent} {d : Nat}
    (h : s.perform ms = s.performed b es d) : stepsOf ms = ms.length + d :=
  congrArg (ms.length + ·) (Nat.add_left_cancel (congrArg State.elapsed h))

/-- A list of Actions run from its word `n` on: all their micro-operations in order, then the list is left. -/
theorem State.ListReady.runs_actions {s : State} {l : ListName} (h : s.ListReady l) {n : Nat} {as : List Action}
    (hl : (listWords s.cfg l).drop n = as.map Action.word) :
    runs (stepsOf (as.flatMap (actionMicros s.cfg))) (s.enterFrom l (as.map Action.word) n) =
      .next (s.perform (as.flatMap (actionMicros s.cfg))).leaveList := by
  induction as generalizing s n with
  | nil => exact congrArg _ (congrArg _ (perform_nil s).symm)
  | cons a as ih =>
    have he := wordEntry_actionWord s.cfg a
    have hw : (listWords s.cfg l)[n]? = some a.word := getElem?_of_drop_eq_cons hl
    have hrest : (listWords s.cfg l).drop (n + 1) = as.map Action.word := by rw [← List.tail_drop, hl]; rfl
    have first := runs_action (h.atStart hw (decodeWord_actionWord a) he)
    have hnext : ((s.atWord l n (.body, .unknown)).perform (actionMicros s.cfg a)).endWord =
        (s.perform (actionMicros s.cfg a)).enterFrom l (as.map Action.word) (n + 1) := by
      rw [← hrest]
      exact endWord_atWord (s.perform (actionMicros s.cfg a)) l n (.body, .unknown)
    have ready : (s.perform (actionMicros s.cfg a)).ListReady l := { h with }
    rw [List.map_cons, enterFrom_cons_of_wordEntry he, List.flatMap_cons, stepsOf_append, perform_append]
    exact (runs_add _ _ (first.trans (congrArg _ hnext))).trans (ih ready hrest)

/-! ### The dispatch lists -/

theorem performed_performed (s : State) (b b' : Board) (es es' : List TraceEvent) (d d' : Nat) :
    (s.performed b es d).performed b' es' d' = s.performed b' (es ++ es') (d + d') := by
  simp [State.performed, Nat.add_assoc]

/-- Between operations a mode that takes events has no list to leave. -/
theorem leaveList_of_rest {s : State} (hf : s.fsm = .manual ∨ s.fsm = .immediate) (hp : s.pos = Pos.rest)
    (hc : s.tCur = .unknown) : s.leaveList = s := by
  rw [leaveList_of_manual_or_immediate hf, ← hp, ← hc]

/-- The block is at the TakeEvent of Manual or of Immediate with the code `c` on the port, `cs` behind it. -/
structure State.Dispatch (s : State) (c : EvCode) (cs : List EvCode) : Prop where
  fsm : s.fsm = .manual ∨ s.fsm = .immediate
  reset : s.rstIn = []
  timer : s.timer = 0
  inits : s.init = allInit
  pos : s.pos = Pos.rest
  tCur : s.tCur = .unknown
  port : s.evIn = c :: cs

/-- The state with the event `e` taken off the port, `cs` left on it. -/
def State.taken (s : State) (e : Event) (cs : List EvCode) : State :=
  State.emit { s with evIn := cs } (.event e)

theorem performed_taken (s : State) (e : Event) (cs : List EvCode) (b : Board) (es : List TraceEvent) (d : Nat) :
    (s.taken e cs).performed b es d = { s with evIn := cs }.performed b (.event e :: es) d := by
  simp [State.taken, State.performed, State.emit]

section
variable {s : State} {c : EvCode} {cs : List EvCode} (h : s.Dispatch c cs)
include h

theorem State.Dispatch.evReady : s.evReady = true := (evReady_iff s).mpr ⟨.inr h.fsm, by rw [h.pos]; rfl⟩

/-- A selection that starts a list of Actions: the event, the `k` micro-operations of the Actions, and the same
TakeEvent again (43_modecontroller.md R165, R167). -/
theorem State.Dispatch.runs_list (l : ListName) (as : List Action) (k : Nat) {e : Event} {n : Nat} {b : Board}
    {es : List TraceEvent} {d : Nat}
    (hx : ∀ v : State, v.evReady = true → v.fsm = s.fsm →
      exec (decodeEvent c) v = .next ((v.emit (.event e)).startList l))
    (hm : s.fsm.mayRun l = true) (hl : listWords s.cfg l = as.map Action.word)
    (hk : (as.flatMap (actionMicros s.cfg)).length = k) (hn : 1 + (k + d) = n)
    (hp : (s.taken e cs).perform (as.flatMap (actionMicros s.cfg)) = (s.taken e cs).performed b es d) :
    runs n s = .next ({ s with evIn := cs }.performed b (.event e :: es) d) := by
  have first := runs_one ((step_event h.reset h.evReady h.port).trans (hx { s with evIn := cs } h.evReady rfl))
  have ready : (s.taken e cs).ListReady l := ⟨h.reset, h.timer, h.inits, hm⟩
  have rest := ready.runs_actions (n := 0) hl
  have atTake : ((s.taken e cs).perform (as.flatMap (actionMicros s.cfg))).leaveList =
      (s.taken e cs).perform (as.flatMap (actionMicros s.cfg)) :=
    leaveList_of_rest (s := (s.taken e cs).perform _) h.fsm h.pos h.tCur
  rw [← hl] at rest
  rw [← hn, ← hk, ← stepsOf_of_performed hp, ← performed_taken, ← hp, ← atTake]
  exact (runs_add _ _ first).trans rest

/-- Back returns to TopMenu (43_modecontroller.md R168). -/
theorem State.Dispatch.runs_back (hc : decodeEvent c = .back) : runs 1 s = .next { s with
    evIn := cs, trace := s.trace ++ [.event .back], fsm := .topMenu } := by
  obtain ⟨back, -⟩ := backCancels { s with evIn := cs } h.evReady
  exact runs_one ((step_event h.reset h.evReady h.port).trans (hc ▸ back h.fsm))

end

/-- Settles O24: each selection starts its list of one Action. -/
theorem manualSelectionsRun : Obligations.ManualSelectionsRun := by
  intro s cs hn hf hp ht hc hi
  have dispatch {c : EvCode} (he : s.evIn = c :: cs) : s.Dispatch c cs := ⟨.inl hf, hn, ht, hi, hp, hc, he⟩
  have may {l : ListName} (hm : Fsm.manual.mayRun l = true) : s.fsm.mayRun l = true := hf ▸ hm
  refine ⟨fun he => ?left, fun he => ?center, fun he => ?right, fun he => (dispatch he).runs_back rfl⟩
  case left =>
    refine (dispatch he).runs_list .manL [.shiftZero] 8 (fun v hr hv => ?_) (may rfl) rfl rfl (by omega)
      (perform_shiftBit (s.taken .left cs) false)
    exact congrArg _ (select_manual hr .left (hv.trans hf))
  case center =>
    refine (dispatch he).runs_list .manC [.latch] 4 (fun v hr hv => ?_) (may rfl) rfl rfl (by omega)
      (perform_latch (s.taken .center cs))
    exact congrArg _ (select_manual hr .center (hv.trans hf))
  case right =>
    refine (dispatch he).runs_list .manR [.shiftOne] 8 (fun v hr hv => ?_) (may rfl) rfl rfl (by omega)
      (perform_shiftBit (s.taken .right cs) true)
    exact congrArg _ (select_manual hr .right (hv.trans hf))

/-- `shift_bit(v)` and then a Latch. -/
theorem perform_shiftBit_latch (s : State) (v : Level) :
    s.perform (shiftBit s.cfg.tUnit v ++ actionMicros s.cfg .latch) = s.performed (s.board.afterShift v).afterLatch
      (shiftTrace s.cfg v ++ latchTrace s.cfg) (4 * s.cfg.tUnit + 2 * s.cfg.tHold) := by
  rw [perform_append, perform_shiftBit, ← performed_performed]
  exact perform_latch (s.performed (s.board.afterShift v) _ _)

/-- `ClearRegister` and then a Latch. -/
theorem perform_clearRegister_latch (s : State) :
    s.perform (actionMicros s.cfg .clearRegister ++ actionMicros s.cfg .latch) = s.performed
      (Board.afterLatch ({ s.pins with srclr := .is true }, { s.ext with sh := Stage.zero s.ext.sh.length }))
      (clearTrace s.cfg ++ latchTrace s.cfg) (4 * s.cfg.tHold) := by
  rw [perform_append, perform_clearRegister, show 4 * s.cfg.tHold = 2 * s.cfg.tHold + 2 * s.cfg.tHold by omega,
    ← performed_performed]
  exact perform_latch (s.performed _ (clearTrace s.cfg) (2 * s.cfg.tHold))

/-- Settles O25: each selection starts its list of an Action and one Latch. -/
theorem immediateSelectionsRun : Obligations.ImmediateSelectionsRun := by
  intro s cs hn hf hp ht hc hi
  have dispatch {c : EvCode} (he : s.evIn = c :: cs) : s.Dispatch c cs := ⟨.inr hf, hn, ht, hi, hp, hc, he⟩
  have may {l : ListName} (hm : Fsm.immediate.mayRun l = true) : s.fsm.mayRun l = true := hf ▸ hm
  refine ⟨fun he => ?left, fun he => ?center, fun he => ?right, fun he => (dispatch he).runs_back rfl⟩
  case left =>
    refine (dispatch he).runs_list .immL [.shiftZero, .latch] 12 (fun v hr hv => ?_) (may rfl) rfl rfl (by omega)
      (perform_shiftBit_latch (s.taken .left cs) false)
    exact congrArg _ (select_immediate hr .left (hv.trans hf))
  case center =>
    refine (dispatch he).runs_list .immC [.clearRegister, .latch] 8 (fun v hr hv => ?_) (may rfl) rfl rfl (by omega)
      (perform_clearRegister_latch (s.taken .center cs))
    exact congrArg _ (select_immediate hr .center (hv.trans hf))
  case right =>
    refine (dispatch he).runs_list .immR [.shiftOne, .latch] 12 (fun v hr hv => ?_) (may rfl) rfl rfl (by omega)
      (perform_shiftBit_latch (s.taken .right cs) true)
    exact congrArg _ (select_immediate hr .right (hv.trans hf))

end Sys2Proof.Machine
end

section
/-! Whole lists of operation words (43_modecontroller.md R172, R173): one word from its start to its end, then a list
word by word, as Auto runs SCRIPT (R170); and the default SCRIPT with its size (42_patternengine.md R146 to R148). -/

namespace Sys2Proof.Machine

/-! ### One word -/

/-- `u` is `s` with the micro-events `tr` done and the draws `ds` left over, but for the board, the counts and
`elapsed`. -/
def Ran (s u : State) (tr : List TraceEvent) (ds : List Draw) : Prop :=
  ∃ ps x el on off, u = { s with
    pins := ps, ext := x, trace := s.trace ++ tr, elapsed := el, rndIn := ds, countOn := on, countOff := off }

/-- The micro-operations of an Action emit the trace of its word. -/
theorem wordTrace_actionInstr (c : Config) (a : Action) (ds : List Draw) :
    wordTrace c a.instr ds = ((actionMicros c a).map Micro.event, ds) := by
  cases a <;> rfl

/-- Every word that starts with its draws lined up runs to its end (43_modecontroller.md R173). -/
theorem State.AtStart.runs_word {s : State} {i : Instr} (h : s.AtStart i) (hd : drawsNeeded [i] ≤ s.rndIn.length) :
    ∃ k u, runs k s = .next u.endWord ∧ Ran s u (wordTrace s.cfg i s.rndIn).1 (wordTrace s.cfg i s.rndIn).2 := by
  have action (a : Action) (ha : s.AtStart a.instr) : ∃ k u, runs k s = .next u.endWord ∧
      Ran s u (wordTrace s.cfg a.instr s.rndIn).1 (wordTrace s.cfg a.instr s.rndIn).2 := by
    rw [wordTrace_actionInstr]
    exact ⟨_, _, runs_action ha, _, _, _, _, _, rfl⟩
  cases i with
  | clearRegister => exact action .clearRegister h
  | clearRegisterInverted => exact action .clearRegisterInverted h
  | enableOutputInverted => exact action .enableOutputInverted h
  | shiftZero => exact action .shiftZero h
  | shiftOne => exact action .shiftOne h
  | latch => exact action .latch h
  | sweep t => exact ⟨_, _, sweepRuns s t h, _, _, _, _, _, rfl⟩
  | alternate t => exact ⟨_, _, alternateRuns s t h, _, _, _, _, _, rfl⟩
  | randomRun t =>
    match hx : s.rndIn with
    | x1 :: x2 :: xs => exact ⟨_, _, randomRunRuns s t x1 x2 xs h hx _ _ rfl rfl, _, _, _, _, _, rfl⟩
    | [_] | [] => simp [hx, drawsNeeded] at hd
  | left | center | right | back =>
    obtain ⟨-, -, w, e, -, hdec, -⟩ := h
    simpa using decodeWord_not_event hdec

/-- A word without a micro-event has an empty trace (log 25). -/
theorem wordTrace_of_wordEntry_none {c : Config} {w : OpWord} {i : Instr} (hd : decodeWord w = .ok i)
    (he : wordEntry c w = none) (ds : List Draw) : wordTrace c i ds = ([], ds) := by
  cases i with
  | sweep t =>
    have h0 : c.sweepHalf = 0 := by simpa [wordEntry, hd] using he
    simp [wordTrace, sweepBits, stepsTrace, h0]
  | alternate t =>
    have h0 : c.altSteps = 0 := by simpa [wordEntry, hd] using he
    simp [wordTrace, alternateBits, stepsTrace, h0]
  | clearRegister | clearRegisterInverted | enableOutputInverted | shiftZero | shiftOne | latch | randomRun t |
    left | center | right | back => simp [wordEntry, hd] at he

/-! ### The draws of a list -/

theorem drawsNeeded_cons (i : Instr) (is : List Instr) : drawsNeeded (i :: is) = drawsNeeded [i] + drawsNeeded is := by
  cases i <;> simp [drawsNeeded]

/-- A word leaves the draws of the words after it (42_patternengine.md R141). -/
theorem drawsNeeded_le_of_cons {c : Config} {i : Instr} {is : List Instr} {ds : List Draw}
    (h : drawsNeeded (i :: is) ≤ ds.length) : drawsNeeded is ≤ (wordTrace c i ds).2.length := by
  cases i with
  | randomRun t =>
    match ds with
    | x1 :: x2 :: xs =>
      simp only [drawsNeeded, List.length_cons] at h
      simp only [wordTrace]
      omega
    | [_] | [] =>
      simp only [drawsNeeded, List.length_cons, List.length_nil] at h
      omega
  | _ => exact h

/-! ### A list word by word -/

theorem Ran.trans {s u v : State} {tr tr' : List TraceEvent} {ds ds' : List Draw} (h : Ran s u tr ds)
    (g : Ran u v tr' ds') : Ran s v (tr ++ tr') ds' := by
  obtain ⟨_, _, _, _, _, rfl⟩ := h
  obtain ⟨ps, x, el, on, off, rfl⟩ := g
  exact ⟨ps, x, el, on, off, by simp⟩

/-- What a word does between its start and its end, done from the state between two words. -/
theorem Ran.of_atWord {s u : State} {l : ListName} {n : Nat} {e : Gph × OrUnknown Nat} {tr : List TraceEvent}
    {ds : List Draw} (h : Ran (s.atWord l n e) u tr ds) : ∃ v : State, u = v.atWord l n e ∧ Ran s v tr ds := by
  obtain ⟨ps, x, el, on, off, rfl⟩ := h
  exact ⟨_, rfl, ps, x, el, on, off, rfl⟩

/-- Between the words of a list the list stays ready, and the draws left are those for the rest. -/
theorem Ran.keeps {s u : State} {tr : List TraceEvent} {ds : List Draw} (h : Ran s u tr ds) {l : ListName}
    (hs : s.ListReady l) : u.cfg = s.cfg ∧ u.rndIn = ds ∧ u.ListReady l := by
  obtain ⟨ps, x, el, on, off, rfl⟩ := h
  exact ⟨rfl, rfl, { hs with }⟩

/-- The rest of a list, the words `ws` from word `n` on, with the draws for it lined up, runs to its end
(43_modecontroller.md R172). -/
theorem State.ListReady.runs_words {s : State} {l : ListName} (h : s.ListReady l) {n : Nat} {ws : List OpWord}
    {is : List Instr} (hl : (listWords s.cfg l).drop n = ws) (hi : ws.map decodeWord = is.map .ok)
    (hd : drawsNeeded is ≤ s.rndIn.length) : ∃ k u, runs k (s.enterFrom l ws n) = .next u.leaveList ∧
      Ran s u (listTrace s.cfg is s.rndIn).1 (listTrace s.cfg is s.rndIn).2 := by
  induction ws generalizing s n is with
  | nil =>
    obtain rfl : is = [] := by simpa using hi.symm
    exact ⟨0, s, rfl, _, _, _, _, _, by rw [listTrace, List.append_nil]⟩
  | cons w ws ih =>
    obtain ⟨i, is, rfl⟩ : ∃ i is', is = i :: is' := List.exists_cons_of_ne_nil fun h0 => by simp [h0] at hi
    obtain ⟨hdec, hi⟩ : decodeWord w = .ok i ∧ ws.map decodeWord = is.map .ok := by simpa using hi
    have hrest : (listWords s.cfg l).drop (n + 1) = ws := by rw [← List.tail_drop, hl]; rfl
    cases he : wordEntry s.cfg w with
    | none =>
      have hskip := wordTrace_of_wordEntry_none hdec he s.rndIn
      have rest := ih h hrest hi (by simpa [hskip] using drawsNeeded_le_of_cons (c := s.cfg) hd)
      simpa [State.enterFrom, he, listTrace, hskip] using rest
    | some e =>
      have start := h.atStart (getElem?_of_drop_eq_cons hl) hdec he
      obtain ⟨k, u, hrun, hu⟩ := start.runs_word (by rw [drawsNeeded_cons] at hd; exact Nat.le_of_add_right_le hd)
      obtain ⟨v, rfl, ran⟩ := hu.of_atWord
      obtain ⟨hcfg, hrnd, ready⟩ := ran.keeps h
      rw [endWord_atWord, hcfg, hrest] at hrun
      obtain ⟨m, u, hrun', ran'⟩ := ih ready (by rw [hcfg, hrest]) hi (by rw [hrnd]; exact drawsNeeded_le_of_cons hd)
      rw [hcfg, hrnd] at ran'
      rw [enterFrom_cons_of_wordEntry he]
      exact ⟨k + m, u, (runs_add k m hrun).trans hrun', ran.trans ran'⟩

/-! ### Auto -/

/-- The whole of SCRIPT from TopMenu (43_modecontroller.md R170, R177). -/
theorem runs_script {s : State} {cs : List EvCode} {is : List Instr} (hn : s.rstIn = []) (hf : s.fsm = .topMenu)
    (hp : s.pos = Pos.rest) (ht : s.timer = 0) (hi : s.init = allInit) (he : s.evIn = 1 :: cs)
    (hs : s.cfg.script.map decodeWord = is.map .ok) (hd : drawsNeeded is ≤ s.rndIn.length) :
    ∃ n u, runs n s = .next u ∧ u.fsm = .topMenu ∧ u.evReady = true ∧ u.evIn = cs ∧
      u.trace = s.trace ++ [.event .center] ++ (listTrace s.cfg is s.rndIn).1 ∧
      u.rndIn = (listTrace s.cfg is s.rndIn).2 := by
  have hr : s.evReady = true := (evReady_iff s).mpr ⟨.inl hf, by rw [hp]; rfl⟩
  obtain ⟨enter, -⟩ := centerSelects { s with evIn := cs } hr
  have first := runs_one ((step_event hn hr he).trans (enter hf))
  have ready : State.ListReady { s with evIn := cs, trace := s.trace ++ [.event .center], fsm := .auto } .script :=
    ⟨hn, ht, hi, rfl⟩
  obtain ⟨k, u, hrun, ps, x, el, on, off, rfl⟩ := ready.runs_words (n := 0) rfl hs hd
  exact ⟨1 + k, _, (runs_add _ _ first).trans hrun, rfl, rfl, rfl, rfl, rfl⟩

/-! ### The default SCRIPT -/

/-- The trace of a list whose RandomRuns all draw `x1` and `x2`. -/
theorem listTrace_replicate (c : Config) (x1 x2 : Draw) {is : List Instr} {n : Nat} (h : drawsNeeded is ≤ 2 * n) :
    (listTrace c is (List.replicate n [x1, x2]).flatten).1 = is.flatMap (fun i => (wordTrace c i [x1, x2]).1) := by
  induction is generalizing n with
  | nil => rfl
  | cons i is ih =>
    rw [List.flatMap_cons]
    cases i with
    | randomRun t =>
      simp only [drawsNeeded] at h
      obtain ⟨m, rfl⟩ : ∃ m, n = m + 1 := Nat.exists_eq_succ_of_ne_zero (by omega)
      rw [← ih (n := m) (by omega)]
      rfl
    | _ =>
      rw [← ih h]
      rfl

/-- Settles O45: the run from the TakeEvent, and the sizes of the words of the default SCRIPT added up. -/
theorem autoRunsScriptAndReturns : Obligations.AutoRunsScriptAndReturns := by
  refine ⟨fun _ _ _ hn hf hp ht _ hi he hs hd => runs_script hn hf hp ht hi he hs hd, rfl, by decide, rfl, rfl, ?_, ?_⟩
  · rw [listTrace_replicate _ _ _ (by decide)]
    simp only [autoSequence, List.flatMap_cons, List.flatMap_nil, wordTrace, List.length_append, length_stepsTrace,
      length_sweepBits, length_alternateBits, length_randomRunBits]
    decide
  · rw [listTrace_replicate _ _ _ (by decide)]
    simp only [autoSequence, List.flatMap_cons, List.flatMap_nil, wordTrace, waitSum_append, waitSum_stepsTrace,
      length_sweepBits, length_alternateBits, length_randomRunBits]
    decide

end Sys2Proof.Machine
end

section
/-! What one step of the machine emits (43_modecontroller.md R174) and what it does to the ModeController state (R160),
from a state that meets the invariant. -/

namespace Sys2Proof.Machine

/-! ### The micro-event of a step -/

/-- One micro-event from `s` to `t`, with no Wait in progress. -/
def Emits (s t : State) : Prop := ∃ e, t.trace = s.trace ++ [e] ∧ s.timer = 0

/-- One millisecond of a Wait from `s` to `t`, with no micro-event (10_state.md R27). -/
def Ticks (s t : State) : Prop := t.trace = s.trace ∧ s.timer ≠ 0 ∧ t.timer + 1 = s.timer

theorem Walk.trace {s t : State} (h : Walk s t) : t.trace = s.trace := by
  obtain ⟨_, _, _, rfl⟩ := h
  rfl

theorem Emits.walk {s b t : State} (h : Emits s b) (hw : Walk b t) : Emits s t := by
  obtain ⟨_, _, _, rfl⟩ := hw
  exact h

theorem Ticks.walk {s b t : State} (h : Ticks s b) (hw : Walk b t) : Ticks s t := by
  obtain ⟨_, _, _, rfl⟩ := hw
  exact h

theorem tick_ticks {s : State} (h : s.timer ≠ 0) : Ticks s s.tick :=
  ⟨rfl, h, Nat.succ_pred_eq_of_ne_zero h⟩

/-- At a micro-operation a step emits its micro-event or counts its Wait down. -/
theorem runMicro_emits (s : State) {adv : State → State} (hadv : ∀ b, Walk b (adv b)) (m : Micro) :
    Emits s (s.runMicro adv (some m)) ∨ Ticks s (s.runMicro adv (some m)) := by
  have writes (ht : s.timer = 0) (r : Role) (l : Level) : Emits s (s.pinWrite r l) := ⟨.write r l, rfl, ht⟩
  have waits (ht : s.timer = 0) (d : Nat) : Emits s (s.beginWait d) := ⟨.wait d, rfl, ht⟩
  rcases runMicro_cases s adv (some m) with
    ⟨ht, e⟩ | ⟨r, l, _, ht, e⟩ | ⟨d, _, ht, _, e⟩ | ⟨_, ht, e⟩ | ⟨d, _, ht, e⟩ | ⟨hm, _⟩
  · exact .inr (e ▸ tick_ticks ht)
  · exact .inl (e ▸ (writes ht r l).walk (hadv _))
  · exact .inl (e ▸ waits ht d)
  · exact .inl (e ▸ (waits ht 0).walk (hadv _))
  · exact .inr (e ▸ (tick_ticks (by omega)).walk (hadv _))
  · cases hm

theorem actionStep_emits {s : State} {a : Action} (h : s.inAction a) :
    Emits s (s.actionStep a) ∨ Ticks s (s.actionStep a) := by
  obtain ⟨-, -, m, hm, -⟩ := h
  rw [State.actionStep, hm]
  exact runMicro_emits s (advanceAction_walk a) m

theorem genStep_emits {s : State} {v : Level} {t : Nat} {after : State → State} (hc : s.tCur = .is t)
    (h : s.inStep v t) (ha : ∀ b, Walk b (after b)) :
    Emits s (s.genStep v t after) ∨ Ticks s (s.genStep v t after) := by
  obtain ⟨m, hm, -⟩ := h
  simp only [State.genStep, stepDelay_of_tCur hc, hm]
  exact runMicro_emits s (advanceStep_walk _ ha) m

theorem randomRunStep_emits {s : State} {t : Nat} (h : s.inWord (.randomRun t)) :
    Emits s (s.randomRunStep t) ∨ Ticks s (s.randomRunStep t) := by
  cases hg : s.pos.gph with
  | drawOn =>
    obtain ⟨-, ht, -⟩ := (inWord_drawOn hg).mp h
    rw [randomRunStep_drawOn hg, State.drawOnStep, if_pos ht]
    exact .inl ⟨_, afterDraw_trace s, ht⟩
  | drawOff =>
    obtain ⟨-, ht, -⟩ := (inWord_drawOff hg).mp h
    rw [randomRunStep_drawOff hg, State.drawOffStep, if_pos ht]
    exact .inl ⟨_, afterDraw_trace s, ht⟩
  | body =>
    obtain ⟨hc, -, -, -, -, hs⟩ := (inWord_body hg).mp h
    rw [randomRunStep_body hg]
    exact genStep_emits hc hs (nextK_walk _ nextSeg_walk)
  | flush =>
    obtain ⟨hc, -, -, -, -, -, hs⟩ := (inWord_flush hg).mp h
    rw [randomRunStep_flush hg]
    exact genStep_emits hc hs (nextK_walk _ endWord_walk)

/-- A step inside a word emits one micro-event or counts a Wait down. -/
theorem exec_word_emits {s t : State} {i : Instr} (h : s.inWord i) (he : exec i s = .next t) :
    Emits s t ∨ Ticks s t := by
  cases i with
  | clearRegister | clearRegisterInverted | enableOutputInverted | shiftZero | shiftOne | latch =>
    cases he
    exact actionStep_emits h
  | sweep d | alternate d =>
    cases he
    obtain ⟨hc, -, -, -, -, hs⟩ := h
    exact genStep_emits hc hs (nextK_walk _ endWord_walk)
  | randomRun d => cases he; exact randomRunStep_emits h
  | left | center | right | back => exact h.elim

theorem exec_decodeEvent_effect {c : EvCode} {s t : State} (h : exec (decodeEvent c) s = .next t) :
    EventEffect s t := by
  unfold decodeEvent at h
  split at h <;> cases h
  · exact select_effect ..
  · exact select_effect ..
  · exact select_effect ..
  · exact cancel_effect s

/-- An event taken at a TakeEvent emits itself. -/
theorem EventEffect.trace {s t : State} (h : EventEffect s t) (hr : s.evReady = true) :
    ∃ e, t.trace = s.trace ++ [.event e] := by
  cases h with
  | notTaken h _ => simp [hr] at h
  | taken _ e hw => exact ⟨e, hw.trace⟩
  | exit _ _ e => exact ⟨.back, by rw [e]; rfl⟩

theorem bootInit_trace (s : State) (r : Role) : (s.bootInit r).trace = s.trace ++ [.init r] := by
  unfold State.bootInit State.initDone
  dsimp only
  split
  · split <;> rfl
  · rfl

/-- Under the invariant a terminal state emits its last micro-event, no Wait being in progress. -/
theorem emitLast_emits {s : State} (hi : s.Inv) (hf : s.fsm = .exit ∨ s.fsm = .panic) : Emits s s.emitLast := by
  have hlists := hi.lists
  have hl : s.pos.list = .none := by
    by_contra hl
    rcases Fsm.of_mayRun hlists hl with ⟨hf', -⟩ | hf' | hf' | hf' <;> simp [hf'] at hf
  obtain ⟨-, ht, -⟩ := hi.idle hl
  rcases hf with hf | hf
  · rw [emitLast_exit hf]
    exact ⟨.farewell, rfl, ht⟩
  · obtain ⟨-, r, hr, -⟩ := hi.panicked hf
    rw [emitLast_panic hf hr]
    exact ⟨.panic r, rfl, ht⟩

/-- The last micro-event and the stop come in a terminal state only. -/
theorem terminal_of_next {s : State} (h : s.next = .last ∨ s.next = .stopped) : s.fsm = .exit ∨ s.fsm = .panic := by
  have hw : ¬(s.fetchWord = .last ∨ s.fetchWord = .stopped) := by
    unfold State.fetchWord
    split <;> simp
  unfold State.next at h
  cases hf : s.fsm with
  | exit => exact .inl rfl
  | panic => exact .inr rfl
  | boot => cases hn : s.nextInit <;> simp [hf, hn, hw] at h
  | auto => simp [hf, hw] at h
  | topMenu | manual | immediate =>
    simp only [hf] at h
    split at h
    · simp at h
    · exact absurd h hw

/-- Settles O50, by what the sequencer does next. -/
theorem oneMicroEventPerStep : Obligations.OneMicroEventPerStep := by
  intro s t hi hn h
  obtain ⟨rs, e⟩ := step_noReset hn h
  have hi' : State.Inv { s with rstIn := rs } := { hi with }
  cases e with
  | boot r hnext _ e =>
    obtain ⟨hf, hr⟩ := next_boot_iff.mp hnext
    obtain ⟨-, -, ht, -⟩ := hi.booting r hf hr
    exact .inl ⟨.init r, e ▸ bootInit_trace _ r, ht⟩
  | word w i hnext hd e =>
    obtain ⟨-, hin⟩ := hi'.runs_of_word hnext hd
    rcases exec_word_emits hin e with h | ⟨htr, htick⟩
    · exact .inl h
    · exact .inr ⟨htr, .inl htick⟩
  | event c cs hnext _ e =>
    have hr : s.evReady = true := (next_takeEvent_iff _).mp hnext
    obtain ⟨-, -, ht, -⟩ := hi.settled_of_evReady hr
    obtain ⟨v, hv⟩ := (exec_decodeEvent_effect e).trace hr
    exact .inl ⟨.event v, hv, ht⟩
  | blocked hnext hev e =>
    subst e
    exact .inr ⟨rfl, .inr (.inl ⟨(next_takeEvent_iff _).mp hnext, hev, rfl⟩)⟩
  | listOver hnext _ => exact absurd hnext hi'.next_ne_listOver
  | last hnext e => exact .inl (e ▸ emitLast_emits hi' (terminal_of_next (.inl hnext)))
  | stopped hnext _ e =>
    subst e
    exact .inr ⟨rfl, .inr (.inr ⟨terminal_of_next (.inr hnext), rfl⟩)⟩

/-! ### The ModeController state after a step -/

/-- From `f` a word leads to `g`: the mode stays, or Boot or Auto is left for TopMenu (43_modecontroller.md R170,
R174). -/
def Fsm.AfterWord (f g : Fsm) : Prop := g = f ∨ (g = .topMenu ∧ (f = .boot ∨ f = .auto))

theorem Fsm.AfterWord.eq {f g : Fsm} (h : f.AfterWord g) (hb : f ≠ .boot) (ha : f ≠ .auto) : g = f :=
  h.resolve_right fun ⟨_, hf⟩ => hf.elim hb ha

theorem leaveList_afterWord (s : State) : s.fsm.AfterWord s.leaveList.fsm := by
  cases hf : s.fsm <;> simp [Fsm.AfterWord, hf]

theorem enterFrom_afterWord (l : ListName) (ws : List OpWord) (n : Nat) (s : State) :
    s.fsm.AfterWord (s.enterFrom l ws n).fsm := by
  rcases enterFrom_cases l ws n s with ⟨_, _, _, _, _, _, e⟩ | ⟨_, e⟩ <;> rw [e]
  · exact .inl rfl
  · exact leaveList_afterWord s

theorem endWord_afterWord (s : State) : s.fsm.AfterWord s.endWord.fsm := enterFrom_afterWord ..

theorem advanceAction_afterWord (a : Action) (s : State) : s.fsm.AfterWord (s.advanceAction a).fsm := by
  unfold State.advanceAction
  split
  · exact .inl rfl
  · exact endWord_afterWord s

theorem advanceStep_afterWord (len : Nat) {after : State → State} (h : ∀ s : State, s.fsm.AfterWord (after s).fsm)
    (s : State) : s.fsm.AfterWord (s.advanceStep len after).fsm := by
  unfold State.advanceStep
  split
  · exact .inl rfl
  · split
    · exact .inl rfl
    · exact .inl rfl
    · exact h s

theorem nextK_afterWord (bound : Nat) {done : State → State} (h : ∀ s : State, s.fsm.AfterWord (done s).fsm)
    (s : State) : s.fsm.AfterWord (s.nextK bound done).fsm := by
  unfold State.nextK
  split
  · exact .inl rfl
  · exact h s

theorem nextSeg_afterWord (s : State) : s.fsm.AfterWord s.nextSeg.fsm := by
  unfold State.nextSeg State.enterFlush
  split
  · exact .inl rfl
  · exact .inl rfl
  · split
    · exact .inl rfl
    · split
      · exact endWord_afterWord s
      · exact .inl rfl

theorem runMicro_afterWord (s : State) {adv : State → State} (h : ∀ b : State, b.fsm.AfterWord (adv b).fsm)
    (m : Option Micro) : s.fsm.AfterWord (s.runMicro adv m).fsm := by
  rcases runMicro_cases s adv m with
    ⟨_, e⟩ | ⟨r, l, _, _, e⟩ | ⟨d, _, _, _, e⟩ | ⟨_, _, e⟩ | ⟨d, _, _, e⟩ | ⟨_, _, e⟩ <;> rw [e]
  · exact .inl rfl
  · exact h (s.pinWrite r l)
  · exact .inl rfl
  · exact h (s.beginWait 0)
  · exact h s.tick
  · exact h s

theorem actionStep_afterWord (s : State) (a : Action) : s.fsm.AfterWord (s.actionStep a).fsm :=
  runMicro_afterWord s (advanceAction_afterWord a) _

theorem genStep_afterWord (s : State) (v : Level) (t : Nat) {after : State → State}
    (h : ∀ b : State, b.fsm.AfterWord (after b).fsm) : s.fsm.AfterWord (s.genStep v t after).fsm :=
  runMicro_afterWord s (advanceStep_afterWord _ h) _

theorem randomRunStep_afterWord (s : State) (t : Nat) : s.fsm.AfterWord (s.randomRunStep t).fsm := by
  have draw (hg : s.pos.gph = .drawOn ∨ s.pos.gph = .drawOff) : s.fsm.AfterWord (s.randomRunStep t).fsm := by
    obtain ⟨_, _, _, _, _, _, _, e⟩ := randomRunStep_draw_frame hg t
    exact .inl (by rw [e])
  cases hg : s.pos.gph with
  | drawOn => exact draw (.inl hg)
  | drawOff => exact draw (.inr hg)
  | body => exact randomRunStep_body hg t ▸ genStep_afterWord s _ t (nextK_afterWord _ nextSeg_afterWord)
  | flush => exact randomRunStep_flush hg t ▸ genStep_afterWord s _ t (nextK_afterWord _ endWord_afterWord)

theorem exec_word_afterWord {s t : State} {i : Instr} (h : s.inWord i) (he : exec i s = .next t) :
    s.fsm.AfterWord t.fsm := by
  cases i with
  | clearRegister | clearRegisterInverted | enableOutputInverted | shiftZero | shiftOne | latch =>
    cases he
    exact actionStep_afterWord s _
  | sweep d | alternate d =>
    cases he
    exact genStep_afterWord s _ d (nextK_afterWord _ endWord_afterWord)
  | randomRun d =>
    cases he
    exact randomRunStep_afterWord s d
  | left | center | right | back => exact h.elim

section
variable {s : State} (hr : s.evReady = true) (e : Event) {mode : Fsm} {l k : ListName}
include hr

/-- A selection changes the mode in TopMenu only, to the one it enters (43_modecontroller.md R160). -/
theorem select_fsm (hne : (s.select e mode l k).fsm ≠ s.fsm) :
    s.fsm = .topMenu ∧ (s.select e mode l k).fsm = mode := by
  obtain ⟨hf | hf | hf, -⟩ := (evReady_iff s).mp hr
  · refine ⟨hf, ?_⟩
    by_cases hm : mode = .auto
    · subst hm
      rw [select_topMenu_auto hr e hf] at hne ⊢
      exact Or.resolve_right (enterFrom_afterWord ..) fun ⟨h, _⟩ => hne (h.trans hf.symm)
    · rw [select_topMenu hr e hf hm]
  · rw [select_manual hr e hf] at hne
    exact absurd (Fsm.AfterWord.eq (enterFrom_afterWord ..) (by simp [hf]) (by simp [hf])) hne
  · rw [select_immediate hr e hf] at hne
    exact absurd (Fsm.AfterWord.eq (enterFrom_afterWord ..) (by simp [hf]) (by simp [hf])) hne

theorem select_trace : (s.select e mode l k).trace = s.trace ++ [.event e] := by
  unfold State.select
  rw [if_pos hr]
  split
  · split
    · exact (startList_walk _ _).trace
    · rfl
  · exact (startList_walk _ _).trace
  · exact (startList_walk _ _).trace

end

/-- The rows of the transition table that an event of TopMenu takes: the mode or Exit it leads to
(43_modecontroller.md R160). -/
def Enters (e : Event) (f : Fsm) : Prop :=
  (e = .left ∧ f = .manual) ∨ (e = .center ∧ f = .auto) ∨ (e = .right ∧ f = .immediate) ∨ (e = .back ∧ f = .exit)

/-- A change of mode by an event is a row of TopMenu, or Back in Manual or Immediate (43_modecontroller.md R160). -/
theorem exec_event_transition {c : EvCode} {s t : State} (hr : s.evReady = true)
    (he : exec (decodeEvent c) s = .next t) (hne : t.fsm ≠ s.fsm) :
    (s.fsm = .topMenu ∧ ∃ e : Event, t.trace = s.trace ++ [.event e] ∧ Enters e t.fsm) ∨
    ((s.fsm = .manual ∨ s.fsm = .immediate) ∧ t.fsm = .topMenu ∧ t.trace = s.trace ++ [.event .back]) := by
  unfold decodeEvent at he
  split at he <;> cases he
  · obtain ⟨hf, hm⟩ := select_fsm hr .left hne
    exact .inl ⟨hf, .left, select_trace hr .left, .inl ⟨rfl, hm⟩⟩
  · obtain ⟨hf, hm⟩ := select_fsm hr .center hne
    exact .inl ⟨hf, .center, select_trace hr .center, .inr (.inl ⟨rfl, hm⟩)⟩
  · obtain ⟨hf, hm⟩ := select_fsm hr .right hne
    exact .inl ⟨hf, .right, select_trace hr .right, .inr (.inr (.inl ⟨rfl, hm⟩))⟩
  · obtain ⟨hf | hf, -⟩ := (evReady_iff s).mp hr
    · rw [cancel_topMenu hr hf]
      exact .inl ⟨hf, .back, rfl, .inr (.inr (.inr ⟨rfl, rfl⟩))⟩
    · rw [cancel_mode hr hf]
      exact .inr ⟨hf, rfl, rfl⟩

/-- An init of boot stays in Boot, ends in TopMenu, or panics (43_modecontroller.md R160). -/
theorem bootInit_fsm {s : State} (hf : s.fsm = .boot) (r : Role) :
    (s.bootInit r).fsm = s.fsm ∨ (s.bootInit r).fsm = .topMenu ∨ (s.bootInit r).fsm = .panic := by
  unfold State.bootInit State.initDone
  dsimp only
  split
  · split
    · exact .inr (.inl (by simp [hf]))
    · exact .inl rfl
  · exact .inr (.inr rfl)

theorem Fsm.eq_none_of_mayRun_topMenu {l : ListName} (h : Fsm.topMenu.mayRun l = true) : l = .none := by
  cases l <;> simp [Fsm.mayRun] at h ⊢

/-- Settles O58, by what the sequencer does next. -/
theorem transitionsAreTheTable : Obligations.TransitionsAreTheTable := by
  intro s t hi hn h hne
  have ht := invariantKept s t hi h
  obtain ⟨rs, e⟩ := step_noReset hn h
  have hi' : State.Inv { s with rstIn := rs } := { hi with }
  cases e with
  | boot r hnext _ e =>
    obtain ⟨hf, -⟩ := next_boot_iff.mp hnext
    subst e
    exact .inl ⟨hf, (bootInit_fsm hf r).resolve_left hne⟩
  | word w i hnext hd e =>
    obtain ⟨-, hin⟩ := hi'.runs_of_word hnext hd
    obtain ⟨htop, hf⟩ := (exec_word_afterWord hin e).resolve_left hne
    rcases hf with hf | hf
    · exact .inl ⟨hf, .inl htop⟩
    · exact .inr (.inr (.inr ⟨hf, htop, Fsm.eq_none_of_mayRun_topMenu (htop ▸ ht.lists)⟩))
  | event c cs hnext _ e =>
    have hr : s.evReady = true := (next_takeEvent_iff _).mp hnext
    rcases exec_event_transition (s := { s with rstIn := rs, evIn := cs }) hr e hne with htop | hmode
    · exact .inr (.inl htop)
    · exact .inr (.inr (.inl hmode))
  | blocked _ _ e | stopped _ _ e => exact absurd (by rw [e]) hne
  | listOver hnext _ => exact absurd hnext hi'.next_ne_listOver
  | last _ e =>
    obtain ⟨tr, htr⟩ := emitLast_frame { s with rstIn := rs }
    exact absurd (by rw [e, htr]) hne

end Sys2Proof.Machine
end

section
/-! The event port (43_modecontroller.md R171, 20_memory.md R61): away from a TakeEvent no step looks at it. Every
operation but the events commutes with putting other codes on the port, and emits no `E e`. -/

namespace Sys2Proof.Machine

open Function (Commute)

/-- The state with the codes `cs` on the event port (43_modecontroller.md R162; log 5). -/
def State.offer (cs : List EvCode) (s : State) : State := { s with evIn := cs }

section
variable (cs : List EvCode)

theorem next_offer (s : State) : (s.offer cs).next = s.next := next_congr rfl rfl rfl rfl rfl rfl

/-! ### Walking the position -/

/-- A choice that does not look at the port, between two operations that do not. -/
theorem commute_ite {c : State → Prop} [DecidablePred c] {f g : State → State} (hc : ∀ s : State, c (s.offer cs) ↔ c s)
    (hf : Commute (State.offer cs) f) (hg : Commute (State.offer cs) g) :
    Commute (State.offer cs) (fun s => if c s then f s else g s) := fun s =>
  (apply_ite _ _ _ _).trans (if_congr (hc s).symm (hf s) (hg s))

theorem enterFrom_offer (s : State) (l : ListName) (ws : List OpWord) (n : Nat) :
    (s.enterFrom l ws n).offer cs = (s.offer cs).enterFrom l ws n := by
  induction ws generalizing n with
  | nil => rfl
  | cons w ws ih =>
    have hcfg : (s.offer cs).cfg = s.cfg := rfl
    cases he : wordEntry s.cfg w with
    | some e => simp only [State.enterFrom, hcfg, he]; rfl
    | none => simp only [State.enterFrom, hcfg, he, ih]

theorem endWord_commute : Commute (State.offer cs) State.endWord := fun s => enterFrom_offer cs s _ _ _

theorem advanceAction_commute (a : Action) : Commute (State.offer cs) (State.advanceAction a) :=
  commute_ite cs (fun _ => Iff.rfl) (fun _ => rfl) (endWord_commute cs)

theorem advanceStep_commute (len : Nat) {after : State → State} (h : Commute (State.offer cs) after) :
    Commute (State.offer cs) (State.advanceStep len after) := by
  refine commute_ite cs (fun _ => Iff.rfl) (fun _ => rfl) fun s => ?_
  have hpos : (s.offer cs).pos = s.pos := rfl
  rw [hpos]
  cases s.pos.sph with
  | act | latch => rfl
  | delay => exact h s

theorem nextK_commute (bound : Nat) {done : State → State} (h : Commute (State.offer cs) done) :
    Commute (State.offer cs) (State.nextK bound done) :=
  commute_ite cs (fun _ => Iff.rfl) (fun _ => rfl) h

theorem enterFlush_commute : Commute (State.offer cs) State.enterFlush :=
  commute_ite cs (fun _ => Iff.rfl) (endWord_commute cs) fun _ => rfl

theorem nextSeg_commute : Commute (State.offer cs) State.nextSeg := by
  intro s
  have hpos : (s.offer cs).pos = s.pos := rfl
  unfold State.nextSeg
  rw [hpos]
  cases s.pos.seg with
  | on1 | off => rfl
  | on2 => exact (apply_ite _ _ _ _).trans (if_congr Iff.rfl rfl (enterFlush_commute cs s))

/-! ### Operation words -/

theorem runMicro_commute {adv : State → State} (h : Commute (State.offer cs) adv) (m : Option Micro) :
    Commute (State.offer cs) (State.runMicro · adv m) := by
  have tick : Commute (State.offer cs) State.tick := fun _ => rfl
  rcases m with _ | ⟨r, l⟩ | d
  · exact commute_ite cs (fun _ => Iff.rfl) h tick
  · have write : Commute (State.offer cs) (State.pinWrite · r l) := fun _ => rfl
    exact commute_ite cs (fun _ => Iff.rfl) (h.comp_right write) tick
  · have wait : Commute (State.offer cs) (State.beginWait · d) := fun _ => rfl
    exact commute_ite cs (fun _ => Iff.rfl)
      (commute_ite cs (fun _ => Iff.rfl) (h.comp_right wait) wait)
      (commute_ite cs (fun _ => Iff.rfl) (h.comp_right tick) tick)

theorem actionStep_commute (a : Action) : Commute (State.offer cs) (State.actionStep · a) := fun s =>
  runMicro_commute cs (advanceAction_commute cs a) _ s

theorem genStep_offer (s : State) (v : Level) (t : Nat) {after : State → State} (h : Commute (State.offer cs) after) :
    (s.genStep v t after).offer cs = (s.offer cs).genStep v t after :=
  runMicro_commute cs (advanceStep_commute cs _ h) _ s

theorem afterDraw_commute : Commute (State.offer cs) State.afterDraw := by
  intro s
  have hrnd : (s.offer cs).rndIn = s.rndIn := rfl
  unfold State.afterDraw
  rw [hrnd]
  cases s.rndIn <;> rfl

theorem drawOnStep_commute : Commute (State.offer cs) State.drawOnStep := by
  refine commute_ite cs (fun _ => Iff.rfl) (fun s => ?_) fun _ => rfl
  rw [← afterDraw_commute cs s]
  rfl

theorem drawOffStep_commute : Commute (State.offer cs) State.drawOffStep := by
  refine commute_ite cs (fun _ => Iff.rfl) (fun s => ?_) fun _ => rfl
  rw [← afterDraw_commute cs s]
  rfl

theorem randomRunStep_commute (t : Nat) : Commute (State.offer cs) (State.randomRunStep · t) := by
  intro s
  have hpos : (s.offer cs).pos = s.pos := rfl
  simp only [State.randomRunStep, hpos]
  cases s.pos.gph with
  | drawOn => exact drawOnStep_commute cs s
  | drawOff => exact drawOffStep_commute cs s
  | body => exact genStep_offer cs s _ t (nextK_commute cs _ (nextSeg_commute cs))
  | flush => exact genStep_offer cs s _ t (nextK_commute cs _ (endWord_commute cs))

/-! ### The step -/

/-- The outcome of an operation that commutes with putting other codes on the port. -/
theorem outcome_offer {f : State → State} (h : Commute (State.offer cs) f) {s t : State}
    (e : (.next (f s) : Host.Outcome State Fault Refusal) = .next t) :
    (.next (f (s.offer cs)) : Host.Outcome State Fault Refusal) = .next (t.offer cs) := by
  cases e
  exact congrArg _ (h s).symm

theorem bootInit_commute (r : Role) : Commute (State.offer cs) (State.bootInit · r) := by
  have emit : Commute (State.offer cs) (State.emit · (.init r)) := fun _ => rfl
  have done : Commute (State.offer cs) (State.initDone · r) :=
    commute_ite cs (fun _ => Iff.rfl) (fun _ => rfl) fun _ => rfl
  exact commute_ite cs (fun _ => Iff.rfl) (done.comp_right emit) fun _ => rfl

theorem emitLast_commute : Commute (State.offer cs) State.emitLast := by
  intro s
  have hf : (s.offer cs).fsm = s.fsm := rfl
  have hp : (s.offer cs).panicRole = s.panicRole := rfl
  unfold State.emitLast
  rw [hf, hp]
  cases s.fsm with
  | panic => cases s.panicRole <;> rfl
  | boot | topMenu | manual | auto | immediate | exit => rfl

variable {s t : State} (hr : s.evReady = false)
include hr

/-- Away from a TakeEvent an event changes nothing (43_modecontroller.md R171; log 23). -/
theorem select_of_not_evReady (e : Event) (mode : Fsm) (l k : ListName) : s.select e mode l k = s := by
  simp [State.select, hr]

theorem cancel_of_not_evReady : s.cancel = s := by simp [State.cancel, hr]

theorem exec_event_of_not_evReady :
    exec .left s = .next s ∧ exec .center s = .next s ∧ exec .right s = .next s ∧ exec .back s = .next s :=
  ⟨congrArg _ (select_of_not_evReady hr ..), congrArg _ (select_of_not_evReady hr ..),
    congrArg _ (select_of_not_evReady hr ..), congrArg _ (cancel_of_not_evReady hr)⟩

/-- No meaning looks at the port: an operation word's never, an event's not away from a TakeEvent. -/
theorem exec_offer {i : Instr} (h : exec i s = .next t) : exec i (s.offer cs) = .next (t.offer cs) := by
  obtain ⟨hl, hc, hri, hb⟩ := exec_event_of_not_evReady hr
  obtain ⟨hl', hc', hri', hb'⟩ := exec_event_of_not_evReady (s := s.offer cs) hr
  cases i with
  | clearRegister | clearRegisterInverted | enableOutputInverted | shiftZero | shiftOne | latch =>
    exact outcome_offer cs (actionStep_commute cs _) h
  | sweep d | alternate d =>
    cases h
    exact congrArg _ (genStep_offer cs s _ d (nextK_commute cs _ (endWord_commute cs))).symm
  | randomRun d => exact outcome_offer cs (randomRunStep_commute cs d) h
  | left => cases hl.symm.trans h; exact hl'
  | center => cases hc.symm.trans h; exact hc'
  | right => cases hri.symm.trans h; exact hri'
  | back => cases hb.symm.trans h; exact hb'

/-- A step of the sequencer away from a TakeEvent is the same whatever stands on the port. -/
theorem SeqEffect.offer (e : SeqEffect s t) : seqStep (s.offer cs) = .next (t.offer cs) := by
  have hn := next_offer cs s
  cases e with
  | boot r h hc e =>
    have hc' : (s.offer cs).cfg.wellFormed = true := hc
    rw [e, seqStep, hn, h, bootInit_commute cs r s]
    exact if_pos hc'
  | word w i h hd e =>
    rw [seqStep_word (hn.trans h) hd]
    exact exec_offer cs hr e
  | event _ _ h | blocked h => simp [(next_takeEvent_iff s).mp h] at hr
  | listOver h e =>
    rw [e, seqStep, hn, h]
    rfl
  | last h e => rw [e, seqStep, hn, h, emitLast_commute cs s]
  | stopped h hrst e =>
    rw [e, seqStep, hn, h]
    exact if_neg hrst

/-- A step that is not reset, away from a TakeEvent, is the same whatever stands on the port. -/
theorem step_offer (hn : s.noReset) (h : step s = .next t) : step (s.offer cs) = .next (t.offer cs) := by
  rcases step_cases h with ⟨rs, hrst, -⟩ | ⟨rs, hrst, e⟩ | ⟨hrst, e⟩
  · simp [State.noReset, hrst] at hn
  · have hrst' : (s.offer cs).rstIn = false :: rs := hrst
    rw [step_of_rstIn_false hrst']
    exact e.offer (s := { s with rstIn := rs }) cs hr
  · have hrst' : (s.offer cs).rstIn = [] := hrst
    rw [step_of_rstIn_nil hrst', e.offer cs hr]

end

/-! ### No event is emitted -/

/-- No `E e` is emitted from `s` to `u`. -/
def NoEvent (s u : State) : Prop := ∀ e, u.trace ≠ s.trace ++ [.event e]

theorem noEvent_of_silent {s u : State} (h : u.trace = s.trace) : NoEvent s u := fun e => by simp [h]

/-- The emission of one micro-event that is no event. -/
theorem noEvent_of_emit {s u : State} {v : TraceEvent} (h : u.trace = s.trace ++ [v]) (hv : ∀ e, v ≠ .event e) :
    NoEvent s u := fun e => by simpa [h] using hv e

theorem MicroEffect.noEvent {s b : State} (h : MicroEffect s b) : NoEvent s b := by
  rcases h with rfl | ⟨-, rfl⟩ | ⟨-, r, l, rfl⟩ | ⟨-, d, rfl⟩
  · exact noEvent_of_silent rfl
  · exact noEvent_of_silent rfl
  · exact noEvent_of_emit (v := .write r l) rfl (by simp)
  · exact noEvent_of_emit (v := .wait d) rfl (by simp)

theorem WordEffect.noEvent {s u : State} (h : WordEffect s u) : NoEvent s u := by
  cases h with
  | micro b hb hw =>
    intro e
    rw [hw.trace]
    exact hb.noEvent e
  | drawOn _ e | drawOff _ e => exact noEvent_of_emit (by rw [e]; exact afterDraw_trace s) (by simp)

theorem emitLast_noEvent (s : State) : NoEvent s s.emitLast := by
  unfold State.emitLast
  split
  · next r _ _ => exact noEvent_of_emit (v := .panic r) rfl (by simp)
  · exact noEvent_of_silent rfl
  · exact noEvent_of_emit (v := .farewell) rfl (by simp)

/-- A step of the sequencer away from a TakeEvent emits no event. -/
theorem SeqEffect.noEvent {s u : State} (e : SeqEffect s u) (hr : s.evReady = false) : NoEvent s u := by
  cases e with
  | boot r _ _ e => exact noEvent_of_emit (by rw [e]; exact bootInit_trace s r) (by simp)
  | word w i _ _ e =>
    obtain ⟨v, hv, hw | hev⟩ := exec_effect i s <;> cases hv.symm.trans e
    · exact hw.noEvent
    · cases hev with
      | notTaken _ e => exact noEvent_of_silent (by rw [e])
      | taken h | exit h => simp [h] at hr
  | event _ _ h | blocked h => simp [(next_takeEvent_iff s).mp h] at hr
  | listOver _ e => exact noEvent_of_silent (by rw [e, State.leaveList_trace])
  | stopped _ _ e => exact noEvent_of_silent (by rw [e])
  | last _ e => exact e ▸ emitLast_noEvent s

/-- Settles O23: the events by their guard, the step by its being the same with other codes on the port. With the codes
that stand there this says that none is taken. -/
theorem nothingPolledWhileBusy : Obligations.NothingPolledWhileBusy := by
  refine ⟨fun s hr => exec_event_of_not_evReady hr, fun s t cs hr hn h => ⟨?_, ?_, step_offer cs hr hn h⟩⟩
  · have same : step s = .next (t.offer s.evIn) := step_offer s.evIn hr hn h
    have key : t = t.offer s.evIn := Host.Outcome.next.inj (h.symm.trans same)
    exact (congrArg State.evIn key).trans rfl
  · obtain ⟨rs, e⟩ := step_noReset hn h
    exact e.noEvent (s := { s with rstIn := rs }) hr

end Sys2Proof.Machine
end

section
/-! The one exception (60_exceptions.md R190 to R194): no instruction faults or raises it; boot does, at the first role
in boot order whose init fails. On the way: one init of boot, and the run of the good inits from reset
(70_reset_and_hazards.md R211). -/

namespace Sys2Proof.Machine

/-! ### No instruction raises it -/

/-- Settles O8, by the lemma that says what every instruction can do. -/
theorem execAlwaysCompletes : Obligations.ExecAlwaysCompletes := by
  intro i s
  obtain ⟨t, ht, -⟩ := exec_effect i s
  exact ⟨t, ht⟩

theorem Fsm.AfterWord.ne_panic {f g : Fsm} (h : f.AfterWord g) (hf : f ≠ .panic) : g ≠ .panic := by
  rcases h with rfl | ⟨rfl, -⟩
  · exact hf
  · simp

/-- A selection enters no other mode than its own, taken or not. -/
theorem select_ne_panic {s : State} {mode : Fsm} (hm : mode ≠ .panic) (hs : s.fsm ≠ .panic) (e : Event)
    (l k : ListName) : (s.select e mode l k).fsm ≠ .panic := by
  by_cases hr : s.evReady = true
  · by_cases hne : (s.select e mode l k).fsm = s.fsm
    · rwa [hne]
    · obtain ⟨-, hf⟩ := select_fsm hr e hne
      rwa [hf]
  · rwa [select_of_not_evReady (by simpa using hr)]

theorem cancel_ne_panic {s : State} (hs : s.fsm ≠ .panic) : s.cancel.fsm ≠ .panic := by
  by_cases hr : s.evReady = true
  · obtain ⟨hf | hf, -⟩ := (evReady_iff s).mp hr
    · simp [cancel_topMenu hr hf]
    · simp [cancel_mode hr hf]
  · rwa [cancel_of_not_evReady (by simpa using hr)]

/-- No instruction, whatever the state, leads into Panic (60_exceptions.md R192). -/
theorem exec_ne_panic {i : Instr} {s t : State} (he : exec i s = .next t) (hs : s.fsm ≠ .panic) :
    t.fsm ≠ .panic := by
  cases i with
  | clearRegister | clearRegisterInverted | enableOutputInverted | shiftZero | shiftOne | latch =>
    cases he
    exact (actionStep_afterWord s _).ne_panic hs
  | sweep d | alternate d =>
    cases he
    exact (genStep_afterWord s _ d (nextK_afterWord _ endWord_afterWord)).ne_panic hs
  | randomRun d =>
    cases he
    exact (randomRunStep_afterWord s d).ne_panic hs
  | left | center | right =>
    cases he
    exact select_ne_panic (by simp) hs _ _ _
  | back =>
    cases he
    exact cancel_ne_panic hs

/-! ### One init of boot -/

theorem step_boot {s : State} {r : Role} (hn : s.rstIn = []) (hf : s.fsm = .boot) (hr : s.nextInit = some r)
    (hc : s.cfg.wellFormed = true) : step s = .next (s.bootInit r) := by
  rw [step_of_rstIn_nil hn, seqStep, next_boot_iff.mpr ⟨hf, hr⟩]
  exact if_pos hc

theorem bootInit_of_fails {s : State} {r : Role} (h : s.cfg.initOk.get r = false) :
    s.bootInit r = (s.emit (.init r)).raisePanic r := if_neg (by simp [h])

/-- A good init that is not boot's last micro-event sets its flag and nothing else. -/
theorem bootInit_of_more {s : State} {r : Role} (h : s.cfg.initOk.get r = true)
    (hmore : s.init.set r true ≠ allInit ∨ s.pos.list ≠ .none) :
    s.bootInit r = { s with init := s.init.set r true, trace := s.trace ++ [.init r] } := by
  rw [State.bootInit, if_pos h]
  refine if_neg fun ⟨hnone, hlist⟩ => ?_
  exact hmore.elim (fun hi => hi (nextInit_eq_none_iff.mp hnone)) fun hl => hl hlist

/-- A good init leads from Boot to Boot or TopMenu. -/
theorem bootInit_ne_panic {s : State} {r : Role} (hf : s.fsm = .boot) (h : s.cfg.initOk.get r = true) :
    (s.bootInit r).fsm ≠ .panic := by
  rw [State.bootInit, if_pos h]
  unfold State.initDone
  dsimp only
  split <;> simp [hf]

/-! ### Taking the exception -/

/-- A step of the sequencer into Panic is the failing init of the role that comes next (60_exceptions.md R190). -/
theorem SeqEffect.of_panic {s t : State} (e : SeqEffect s t) (hs : s.fsm ≠ .panic) (ht : t.fsm = .panic) :
    s.fsm = .boot ∧ ∃ r, s.nextInit = some r ∧ s.cfg.initOk.get r = false ∧ t.panicRole = some r := by
  cases e with
  | boot r hnext _ e =>
    obtain ⟨hf, hr⟩ := next_boot_iff.mp hnext
    subst e
    cases hok : s.cfg.initOk.get r with
    | true => exact absurd ht (bootInit_ne_panic hf hok)
    | false => exact ⟨hf, r, hr, hok, by rw [bootInit_of_fails hok, State.raisePanic_panicRole]⟩
  | word _ _ _ _ e => exact absurd ht (exec_ne_panic e hs)
  | event _ cs _ _ e => exact absurd ht (exec_ne_panic (s := { s with evIn := cs }) e hs)
  | blocked _ _ e | stopped _ _ e => exact absurd (e ▸ ht) hs
  | listOver _ e => exact absurd (e ▸ ht) ((leaveList_afterWord s).ne_panic hs)
  | last _ e =>
    obtain ⟨tr, htr⟩ := emitLast_frame s
    rw [e, htr] at ht
    exact absurd ht hs

/-- Settles O57: reset leads to Boot, and a step of the sequencer into Panic is a failing init. -/
theorem panicOnlyAtFailingInit : Obligations.PanicOnlyAtFailingInit := by
  intro s t hs h ht
  rcases step_cases h with ⟨rs, -, rfl⟩ | ⟨rs, -, e⟩ | ⟨-, e⟩
  · cases ht
  · exact e.of_panic (s := { s with rstIn := rs }) hs ht
  · exact e.of_panic hs ht

/-- Settles O12: the failing init raises the exception, the next step emits the `P r` owed, and a terminal state that
owes nothing stops. -/
theorem failedInitPanics : Obligations.FailedInitPanics := by
  intro s r hn hf hr hc hfail
  have first : step s = .next ((s.emit (.init r)).raisePanic r) := by
    rw [step_boot hn hf hr hc, bootInit_of_fails hfail]
  have second := step_terminal_owed (s := (s.emit (.init r)).raisePanic r) (.inr rfl) hn rfl
  rw [emitLast_panic rfl rfl] at second
  have both := (runs_add 1 1 (runs_one first)).trans (runs_one second)
  refine ⟨_, both, by simp [State.emit], rfl, rfl, rfl, rfl, rfl, rfl, rfl, rfl, rfl, rfl, rfl, rfl, rfl, rfl,
    fun n => ?_⟩
  refine runs_terminal_stopped ?_ ?_ ?_ n
  · exact .inr rfl
  · exact hn
  · rfl

/-! ### The inits from reset up to a role -/

/-- Boot under the configuration `c` at the init of `r`, the earlier ones made (70_reset_and_hazards.md R211). -/
def State.atInit (c : Config) (r : Role) : State :=
  { State.resetWith c with init := initBefore r, trace := (Role.all.take r.code.toNat).map .init }

theorem nextInit_atInit (c : Config) (r : Role) : (State.atInit c r).nextInit = some r := nextInit_of_initBefore rfl

/-- A role with a code that is not 0 comes right after another in boot order. -/
theorem Role.exists_previous {r : Role} {n : Nat} (h : r.code.toNat = n + 1) :
    ∃ p : Role, p.code.toNat = n ∧ (initBefore p).set p true = initBefore r ∧
      Role.all.take (n + 1) = Role.all.take n ++ [p] := by
  cases r with
  | ser => cases h
  | oe => cases h; exact ⟨.ser, rfl, rfl, rfl⟩
  | rclk => cases h; exact ⟨.oe, rfl, rfl, rfl⟩
  | srclk => cases h; exact ⟨.rclk, rfl, rfl, rfl⟩
  | srclr => cases h; exact ⟨.srclk, rfl, rfl, rfl⟩

theorem initBefore_ne_allInit (r : Role) : initBefore r ≠ allInit := by cases r <;> decide

/-- From reset the good inits of the roles before `r` lead to the init of `r`. -/
theorem runs_atInit {c : Config} (hc : c.wellFormed = true) {n : Nat} {r : Role} (hr : r.code.toNat = n)
    (hok : ∀ q ∈ Role.all.take n, c.initOk.get q = true) :
    runs n (State.resetWith c) = .next (State.atInit c r) := by
  induction n generalizing r with
  | zero =>
    cases r with
    | ser => rfl
    | oe | rclk | srclk | srclr => cases hr
  | succ n ih =>
    obtain ⟨p, hp, hset, htake⟩ := Role.exists_previous hr
    rw [htake] at hok
    have before := ih hp fun q hq => hok q (List.mem_append_left _ hq)
    have init : step (State.atInit c p) = .next ((State.atInit c p).bootInit p) :=
      step_boot rfl rfl (nextInit_atInit c p) hc
    rw [bootInit_of_more (hok p (by simp)) (.inl (hset ▸ initBefore_ne_allInit r))] at init
    rw [runs_add n 1 before, runs_one init]
    simp [State.atInit, hset, hr, hp, htake]

theorem Role.idxOf_all (r : Role) : Role.all.idxOf r = r.code.toNat := by cases r <;> rfl

/-- The roles before the first one whose init fails are good ones. -/
theorem initOk_of_before_failing {c : Config} {r : Role} (h : Role.all.find? (fun q => !c.initOk.get q) = some r) :
    ∀ q ∈ Role.all.take r.code.toNat, c.initOk.get q = true := by
  obtain ⟨hfail, as, bs, hall, hok⟩ := List.find?_eq_some_iff_append.mp h
  have hr : r ∉ as := fun hm => by simpa [hfail] using hok r hm
  have hlen : r.code.toNat = as.length := by
    rw [← Role.idxOf_all, hall, List.idxOf_append_of_notMem hr, List.idxOf_cons_self, Nat.add_zero]
  rw [hall, hlen, List.take_left]
  exact fun q hq => by simpa using hok q hq

/-- Settles O14: the good inits from reset, then the failing one. -/
theorem firstFailingRolePanics : Obligations.FirstFailingRolePanics := by
  intro c r hc h
  have hfail : c.initOk.get r = false := by simpa using List.find?_some h
  have before := runs_atInit hc rfl (initOk_of_before_failing h)
  obtain ⟨t, hruns, htrace, hfsm, hrole, -, -, -, -, hpins, hinit, -⟩ :=
    failedInitPanics (State.atInit c r) r rfl rfl (nextInit_atInit c r) hc hfail
  have htake : Role.all.take (r.code.toNat + 1) = Role.all.take r.code.toNat ++ [r] := by cases r <;> rfl
  exact ⟨t, (runs_add _ 2 before).trans hruns, by simp [htrace, htake, State.atInit], hfsm, hrole, hinit, hpins⟩

end Sys2Proof.Machine
end

section
/-! Reset and boot run whole (70_reset_and_hazards.md R210 to R212): reset from any state, the good inits up to the
last, and the Actions of RESET_ACTIONS after it. -/

namespace Sys2Proof.Machine

/-! ### Reset -/

/-- Settles O10: a high level of `rst` is the reset itself. -/
theorem resetWinsInAnyState : Obligations.ResetWinsInAnyState := by
  intro s rs h
  simp only [step, h, State.takeReset]

/-! ### The last init -/

/-- The last good init, RESET_ACTIONS being empty, leaves Boot for TopMenu (43_modecontroller.md R174). -/
theorem bootInit_of_last {s : State} {r : Role} (hf : s.fsm = .boot) (h : s.cfg.initOk.get r = true)
    (hlast : s.init.set r true = allInit) (hl : s.pos.list = .none) :
    s.bootInit r = { s with
      init := allInit, trace := s.trace ++ [.init r], fsm := .topMenu, pos := Pos.rest, tCur := .unknown } := by
  have hleave := leaveList_of_auto_or_boot (s := { s with init := allInit, trace := s.trace ++ [.init r] }) (.inr hf)
  rw [State.bootInit, if_pos h, ← hleave, ← hlast]
  exact if_pos ⟨nextInit_eq_none_iff.mpr hlast, hl⟩

/-- Settles O11: one step of Boot is one init, and a good one is either the last before TopMenu or not. -/
theorem bootInitialisesNextRole : Obligations.BootInitialisesNextRole := by
  intro s r hn hf hr hc hok
  rw [step_boot hn hf hr hc]
  exact ⟨fun hmore => congrArg _ (bootInit_of_more hok hmore),
    fun hlast hl => congrArg _ (bootInit_of_last hf hok hlast hl)⟩

/-! ### From reset through the five inits -/

/-- Boot under the configuration `c` with all five inits made and nothing else (70_reset_and_hazards.md R211). -/
def State.initsMade (c : Config) : State :=
  { State.resetWith c with init := allInit, trace := Role.all.map .init }

/-- With the inits made, RESET may run. -/
theorem initsMade_listReady (c : Config) : (State.initsMade c).ListReady .reset := ⟨rfl, rfl, rfl, rfl⟩

/-- With RESET_ACTIONS empty RESET is over at once. -/
theorem startList_initsMade_of_nil {c : Config} (hl : c.resetActions = []) :
    (State.initsMade c).startList .reset = (State.initsMade c).leaveList :=
  startList_of_nil (congrArg (List.map Action.word) hl)

/-- RESET starts at its first Action. -/
theorem startList_initsMade_of_cons {c : Config} {a : Action} {as : List Action} (hl : c.resetActions = a :: as) :
    (State.initsMade c).startList .reset = (State.initsMade c).atWord .reset 0 (.body, .unknown) :=
  startList_of_action (congrArg (List.map Action.word) hl)

/-- The init of the last role, the others made, starts RESET (70_reset_and_hazards.md R211, R212). -/
theorem bootInit_atInit_srclr {c : Config} (hok : c.initOk.get .srclr = true) :
    (State.atInit c .srclr).bootInit .srclr = (State.initsMade c).startList .reset := by
  cases hl : c.resetActions with
  | nil =>
    have hrest : (State.atInit c .srclr).pos.list = .none := by simp [State.atInit, State.resetWith, hl]
    rw [bootInit_of_last rfl hok rfl hrest, startList_initsMade_of_nil hl]
    rfl
  | cons a as =>
    have hmore : (State.atInit c .srclr).pos.list ≠ .none := by simp [State.atInit, State.resetWith, hl]
    have hreset : (State.initsMade c).atWord .reset 0 (.body, .unknown) = State.initsMade c := by
      simp [State.initsMade, State.resetWith, State.atWord, Pos.rest, hl]
    rw [bootInit_of_more hok (.inr hmore), startList_initsMade_of_cons hl, hreset]
    rfl

/-- From reset the five inits lead to the start of RESET, which is over at once if RESET_ACTIONS is empty. -/
theorem runs_initsMade {c : Config} (hc : c.wellFormed = true) (hi : c.initOk = allInit) :
    runs 5 (State.resetWith c) = .next ((State.initsMade c).startList .reset) := by
  have hok (r : Role) : c.initOk.get r = true := hi ▸ allInit_get r
  have before := runs_atInit (n := 4) (r := .srclr) hc rfl fun q _ => hok q
  have last : step (State.atInit c .srclr) = .next ((State.atInit c .srclr).bootInit .srclr) :=
    step_boot rfl rfl (nextInit_atInit c .srclr) hc
  rw [runs_add 4 1 before, runs_one last, bootInit_atInit_srclr (hok .srclr)]

/-- Settles O13: the five inits, then the start of RESET, by whether RESET_ACTIONS is empty. -/
theorem bootMakesFiveInitsInOrder : Obligations.BootMakesFiveInitsInOrder := by
  intro c hc hi
  obtain ⟨_, _, _, hwalk⟩ := startList_walk (State.initsMade c) .reset
  refine ⟨_, runs_initsMade hc hi, by rw [hwalk]; rfl, by rw [hwalk]; rfl, by rw [hwalk]; rfl, by rw [hwalk]; rfl,
    fun hl => ?_, fun a as hl => ?_⟩
  · rw [startList_initsMade_of_nil hl]
    exact ⟨rfl, rfl⟩
  · have hfirst : (listWords (State.initsMade c).cfg .reset)[0]? = some a.word := by
      simp [State.initsMade, State.resetWith, listWords, hl]
    rw [startList_initsMade_of_cons hl]
    exact ⟨rfl, (initsMade_listReady c).atStart hfirst (decodeWord_actionWord a) (wordEntry_actionWord _ a)⟩

/-! ### RESET_ACTIONS -/

/-- From reset the five inits and all micro-operations of RESET_ACTIONS in order, then the list is left
(70_reset_and_hazards.md R212). -/
theorem runs_resetActions {c : Config} (hc : c.wellFormed = true) (hi : c.initOk = allInit) :
    runs (5 + stepsOf (c.resetActions.flatMap (actionMicros c))) (State.resetWith c) =
      .next ((State.initsMade c).perform (c.resetActions.flatMap (actionMicros c))).leaveList :=
  (runs_add 5 _ (runs_initsMade hc hi)).trans ((initsMade_listReady c).runs_actions (n := 0) rfl)

/-- A list of Actions takes no draw, and its trace is that of their micro-operations. -/
theorem listTrace_actions (c : Config) (as : List Action) (ds : List Draw) :
    listTrace c (as.map Action.instr) ds = ((as.flatMap (actionMicros c)).map Micro.event, ds) := by
  induction as with
  | nil => rfl
  | cons a as ih => simp [listTrace, wordTrace_actionInstr, ih]

/-- Settles O16: RESET_ACTIONS run whole, and leaving the list in Boot is entering TopMenu. -/
theorem bootRunsResetActions : Obligations.BootRunsResetActions := by
  intro c hc hi
  exact ⟨_, _, runs_resetActions hc hi, rfl, rfl, by rw [listTrace_actions]; rfl⟩

/-- The reference configuration with BRINGUP for RESET_ACTIONS (70_reset_and_hazards.md R212). -/
def bringUpConfig : Config := { Config.reference with resetActions := bringUp }

/-- Settles O15: the run of RESET_ACTIONS, whose 21 writes and Waits end with the pins and the register named. -/
theorem bringUpEndsKnown : Obligations.BringUpEndsKnown := by
  have hsteps : stepsOf (bringUpConfig.resetActions.flatMap (actionMicros bringUpConfig)) = 31 := rfl
  have hrun := runs_resetActions (c := bringUpConfig) (by decide) rfl
  rw [hsteps] at hrun
  exact ⟨_, hrun, rfl, rfl, rfl, by decide, by decide, by decide⟩

end Sys2Proof.Machine
end

section
/-! What every step keeps (70_reset_and_hazards.md R222, R224, R228): `elapsed` is the sum of the Waits of the trace,
and OE and SRCLR are written by the Actions that name them only. -/

namespace Sys2Proof.Machine

/-! ### The time elapsed -/

/-- `elapsed` is the sum of the Waits of the trace (70_reset_and_hazards.md R228). -/
def State.Timed (s : State) : Prop := s.elapsed = waitSum s.trace

/-- States that are seen alike have the same trace and `elapsed`. -/
theorem State.Timed.of_seen {s t : State} (hs : s.Timed) (h : t.seen = s.seen) : t.Timed := by
  simp only [State.seen, Prod.mk.injEq] at h
  obtain ⟨-, -, htr, -, hel, -⟩ := h
  rw [State.Timed, htr, hel]
  exact hs

theorem waitSum_plain {e : TraceEvent} (h : e.plain) : waitSum [e] = 0 := by
  cases e with
  | write _ _ | wait _ => exact h.elim
  | init _ | draw _ | event _ | farewell | panic _ => rfl

/-- A micro-event adds its duration, 0 if it is no Wait, to both sums. -/
theorem State.Timed.of_emit {s t : State} (hs : s.Timed) {e : TraceEvent} (htr : t.trace = s.trace ++ [e])
    (hel : t.elapsed = s.elapsed + waitSum [e]) : t.Timed := by
  rw [State.Timed, htr, hel, waitSum_append]
  exact congrArg (· + waitSum [e]) hs

theorem Delta.timed {s t : State} (d : Delta s t) (hs : s.Timed) : t.Timed := by
  cases d with
  | silent h => exact hs.of_seen h
  | tick _ h => exact State.Timed.of_seen (s := s.tick) hs h
  | write r l _ h => exact (hs.of_emit (t := s.pinWrite r l) rfl rfl).of_seen h
  | wait d _ h => exact (hs.of_emit (t := s.beginWait d) rfl rfl).of_seen h
  | plain e he h => exact (hs.of_emit (t := s.emit e) rfl (by rw [waitSum_plain he]; rfl)).of_seen h

/-- Settles O53: a reset begins both anew, and every other step keeps them together. -/
theorem elapsedIsSumOfWaits : Obligations.ElapsedIsSumOfWaits := by
  intro s t hs h
  rcases step_cases h with ⟨rs, -, rfl⟩ | ⟨rs, -, e⟩ | ⟨-, e⟩
  · rfl
  · exact e.delta.timed (s := { s with rstIn := rs }) hs
  · exact e.delta.timed hs

/-! ### The write a step makes -/

/-- Only a `W r l` event changes the pins. -/
theorem Delta.pins_of_trace {s t : State} (d : Delta s t) (h : ∀ r l, t.trace ≠ s.trace ++ [.write r l]) :
    t.pins = s.pins := by
  rcases d.board with ⟨hp, -⟩ | ⟨r, l, htr, -⟩
  · exact hp
  · exact absurd htr (h r l)

theorem micro_decodeEvent (s : State) (c : EvCode) : s.micro (decodeEvent c) = none := by
  unfold decodeEvent
  split <;> rfl

/-- A step of the sequencer changes the pins only by the write at the position of the word it runs. -/
theorem SeqEffect.pins {s t : State} (e : SeqEffect s t) : t.pins = s.pins ∨
    ∃ w i r l, s.next = .word w ∧ decodeWord w = .ok i ∧ s.micro i = some (.write r l) ∧
      t.pins = s.pins.set r (.is l) := by
  have hd := e.delta
  cases e with
  | boot r _ _ e => exact .inl (hd.pins_of_trace fun q l => by simp [e, bootInit_trace])
  | word w i hw hdec e =>
    rcases exec_pins e with ⟨hp, -⟩ | ⟨r, l, hm, -, hp, -⟩
    · exact .inl hp
    · exact .inr ⟨w, i, r, l, hw, hdec, hm, hp⟩
  | event c cs _ _ e =>
    rcases exec_pins e with ⟨hp, -⟩ | ⟨r, l, hm, -⟩
    · exact .inl hp
    · simp [micro_decodeEvent] at hm
  | blocked _ _ e | stopped _ _ e => exact .inl (by rw [e])
  | listOver _ e => exact .inl (by rw [e, State.leaveList_pins])
  | last _ e =>
    obtain ⟨tr, htr⟩ := emitLast_frame s
    exact .inl (by rw [e, htr])

/-- OE and SRCLR are written by Actions of their own only, never inside a Step (42_patternengine.md R130). -/
theorem exists_action_of_micro_write {s : State} {i : Instr} {r : Role} {l : Level} (hr : r = .oe ∨ r = .srclr)
    (h : s.micro i = some (.write r l)) :
    ∃ a : Action, i = a.instr ∧ (actionMicros s.cfg a)[s.pos.u]? = some (.write r l) := by
  have notInStep {v : Level} {d : Nat}
      (hm : (stepMicros s.cfg v (s.stepDelay d) s.pos.sph)[s.pos.u]? = some (.write r l)) : False := by
    rcases stepMicros_write_cases (List.mem_of_getElem? hm) with rfl | rfl | rfl <;> simp at hr
  cases i with
  | clearRegister => exact ⟨.clearRegister, rfl, h⟩
  | clearRegisterInverted => exact ⟨.clearRegisterInverted, rfl, h⟩
  | enableOutputInverted => exact ⟨.enableOutputInverted, rfl, h⟩
  | shiftZero => exact ⟨.shiftZero, rfl, h⟩
  | shiftOne => exact ⟨.shiftOne, rfl, h⟩
  | latch => exact ⟨.latch, rfl, h⟩
  | sweep d | alternate d => exact (notInStep h).elim
  | randomRun d =>
    unfold State.micro at h
    cases hg : s.pos.gph with
    | drawOn | drawOff => simp [hg] at h
    | body | flush =>
      simp only [hg] at h
      exact (notInStep h).elim
  | left | center | right | back => cases h

/-! ### OE -/

/-- No list holds an EnableOutputInverted unless RESET_ACTIONS or SCRIPT does (43_modecontroller.md R161). -/
theorem enableOutput_notMem_listWords {c : Config} (hr : Action.enableOutputInverted ∉ c.resetActions)
    (hs : Action.enableOutputInverted.word ∉ c.script) (l : ListName) :
    Action.enableOutputInverted.word ∉ listWords c l := by
  cases l with
  | script => exact hs
  | reset =>
    intro hm
    obtain ⟨a, ha, hw⟩ := List.mem_map.mp hm
    cases a with
    | enableOutputInverted => exact hr ha
    | clearRegister | clearRegisterInverted | shiftZero | shiftOne | latch => exact absurd hw (by decide)
  | none | manL | manC | manR | immL | immC | immR => simp [listWords, Action.word]

/-- The word that comes next is one of the running list (43_modecontroller.md R172). -/
theorem mem_listWords_of_next {s : State} {w : OpWord} (h : s.next = .word w) : w ∈ listWords s.cfg s.pos.list := by
  have hfetch : s.fetchWord = .word w := by
    unfold State.next at h
    cases hf : s.fsm with
    | boot =>
      cases hn : s.nextInit with
      | none => simpa [hf, hn] using h
      | some r => simp [hf, hn] at h
    | auto => simpa [hf] using h
    | topMenu | manual | immediate =>
      simp only [hf] at h
      split at h
      · cases h
      · exact h
    | exit | panic => cases ho : s.owed <;> simp [hf, ho] at h
  exact List.mem_of_getElem? (fetchWord_eq_word.mp hfetch)

/-- A word of an Action is the only one that decodes to it (30_encoding.md R73). -/
theorem eq_actionWord_of_decodeWord {w : OpWord} {a : Action} (h : decodeWord w = .ok a.instr) : w = a.word := by
  obtain ⟨-, henc⟩ := encode_decodeWord h
  simpa [eq_comm] using henc

/-- A step of the sequencer leaves OE as it is while no list holds an EnableOutputInverted (41_actionset.md R120). -/
theorem SeqEffect.oe {s t : State} (e : SeqEffect s t) (hr : Action.enableOutputInverted ∉ s.cfg.resetActions)
    (hs : Action.enableOutputInverted.word ∉ s.cfg.script) : t.pins.get .oe = s.pins.get .oe := by
  rcases e.pins with hp | ⟨w, i, r, l, hw, hd, hm, hp⟩
  · rw [hp]
  · refine hp ▸ PerRole.get_set_other _ _ fun hoe => ?_
    subst hoe
    obtain ⟨a, rfl, ha⟩ := exists_action_of_micro_write (.inl rfl) hm
    obtain rfl : a = .enableOutputInverted := by simpa using actionMicros_write_cases (List.mem_of_getElem? ha)
    have hmem := mem_listWords_of_next hw
    rw [eq_actionWord_of_decodeWord hd] at hmem
    exact enableOutput_notMem_listWords hr hs _ hmem

theorem outputs_of_oe_unknown {s : State} (h : s.pins.oe = .unknown) : s.outputs = .notKnown := by
  simp only [State.outputs, h]

/-- Settles O54: reset makes OE unknown, and every other step leaves it so. -/
theorem outputEnableNeverDriven : Obligations.OutputEnableNeverDriven := by
  intro s t hoe hr hs h
  have hunknown : t.pins.oe = .unknown := by
    rcases step_cases h with ⟨rs, -, rfl⟩ | ⟨rs, -, e⟩ | ⟨-, e⟩
    · rfl
    · exact (e.oe (s := { s with rstIn := rs }) hr hs).trans hoe
    · exact (e.oe hr hs).trans hoe
  exact ⟨hunknown, outputs_of_oe_unknown hunknown⟩

/-! ### SRCLR -/

/-- The writes of SRCLR: low at index 0 and high at index 2 of a ClearRegister, high in a ClearRegisterInverted
(41_actionset.md R112, R113). -/
theorem actionMicros_srclr_cases {c : Config} {a : Action} {u : Nat} {l : Level}
    (h : (actionMicros c a)[u]? = some (.write .srclr l)) :
    (a = .clearRegister ∧ ((u = 0 ∧ l = false) ∨ (u = 2 ∧ l = true))) ∨ (a = .clearRegisterInverted ∧ l = true) := by
  have hmem := actionMicros_write_cases (List.mem_of_getElem? h)
  obtain rfl | ⟨rfl, rfl⟩ : a = .clearRegister ∨ (a = .clearRegisterInverted ∧ l = true) := by simpa using hmem
  · match u with
    | 0 | 2 => simpa [actionMicros, pulse, eq_comm] using h
    | 1 | 3 | u + 4 => simp [actionMicros, pulse] at h
  · exact .inr ⟨rfl, rfl⟩

/-- Settles O55: a changed SRCLR is the write at the position of one of the two clear Actions. -/
theorem clearLineFallsOnlyInClearRegister : Obligations.ClearLineFallsOnlyInClearRegister := by
  intro s t hn h hne
  obtain ⟨rs, e⟩ := step_noReset hn h
  obtain hp | ⟨w, i, r, l, hw, hd, hm, hp⟩ := e.pins
  · exact absurd (congrArg PerRole.srclr hp) hne
  have hr : r = .srclr := by
    by_contra hr
    exact hne (hp ▸ PerRole.get_set_other _ _ (Ne.symm hr) : t.pins.get .srclr = s.pins.get .srclr)
  subst hr
  have hval : t.pins.srclr = .is l := by rw [hp]; rfl
  obtain ⟨a, rfl, ha⟩ := exists_action_of_micro_write (.inr rfl) hm
  have hcur : s.current = some a.instr := current_eq_some_iff.mpr ⟨w, hw, hd⟩
  rcases actionMicros_srclr_cases ha with ⟨rfl, ⟨hu, rfl⟩ | ⟨hu, rfl⟩⟩ | ⟨rfl, rfl⟩
  · exact .inl ⟨hval, hcur, hu⟩
  · exact .inr ⟨hval, .inl ⟨hcur, hu⟩⟩
  · exact .inr ⟨hval, .inr hcur⟩

end Sys2Proof.Machine
end
